-- ==== Sys2Proof/Word.lean ====
section
/-! DEFINITION. The word types of the block: the byte of R9 and the 68-bit command word of R99.
Sizes, addresses, counts and the two command operands are natural numbers, as R9 has them; registers of a
fixed width are bit vectors of that width. -/

namespace Sys2Proof

/-- A byte is 8 bits; bit 7 is its most significant (R9, R62). -/
abbrev Byte := BitVec 8

/-- One command word, `op[67:64]`, `a[63:32]`, `b[31:0]` (R99). -/
abbrev CommandWord := BitVec 68

/-- One record header as a 16-bit value, sent most significant byte first (R91). -/
abbrev HeaderWord := BitVec 16

end Sys2Proof
end

