-- ==== Sys2Proof/Syntax.lean ====
section
/-! DEFINITION. The instructions: one constructor for each row of spec/opcode_table.json. An operand is the natural
number its field holds (R9, R99); an operand field that R100 marks `ignored` has no place here, since the operation
does not read it (R102). -/

namespace Sys2Proof

/-- The twelve operations and the four illegal command codes of R100, and the record header of R91. -/
inductive Instr where
  /-- 0x1, write 1 byte (R121). -/
  | wr8 (a : Nat)
  /-- 0x2, write 2 bytes big-endian (R122). -/
  | wr16 (a : Nat)
  /-- 0x3, write 3 bytes big-endian (R123). -/
  | wr24 (a : Nat)
  /-- 0x4, write 4 bytes big-endian (R124). -/
  | wr32 (a : Nat)
  /-- 0x5, copy `n` bytes of the source `sel` selects, 0 for CFG and 1 for PAY (R125). -/
  | wrn (sel n : Nat)
  /-- 0x6, set the cursor (R126). -/
  | setcur (p : Nat)
  /-- 0x7, append the written bytes to OUT (R127). -/
  | flush
  /-- 0x8, check two sizes and pack them into HDR (R170). -/
  | pack (configSize payloadSize : Nat)
  /-- 0x9, serialise one unit (R171). -/
  | ser (configSize payloadSize : Nat)
  /-- 0xA, decode two header bytes (R140). -/
  | unpack (b0 b1 : Nat)
  /-- 0xB, read one record from IN (R141). -/
  | parse
  /-- 0xF, return to the reset state (R190). -/
  | reset
  /-- 0x0, names no operation (R191). -/
  | illegal0
  /-- 0xC, names no operation (R191). -/
  | illegalC
  /-- 0xD, names no operation (R191). -/
  | illegalD
  /-- 0xE, names no operation (R191). -/
  | illegalE
  /-- The 2-byte header of a record on the wire, with its two sizes (R91). Not a command: it reaches the block on
  IN, and PARSE is what takes it from there. -/
  | recordHeader (configSize payloadSize : Nat)
deriving DecidableEq, Repr

end Sys2Proof
end

