-- ==== Sys2Proof/WellFormed.lean ====
section
/-! DEFINITION. Which instructions have an encoding: every operand fits the field that carries it, 32 bits for a
command operand (R6 `W`, R99), 6 and 10 bits for the two sizes of a record header (R91). An operand that fits its
field and is out of the operation's range (WR8 0x100) is well-formed: the operation refuses it with a result. -/

namespace Sys2Proof

/-- `v` fits a field of `width` bits. -/
def fitsField (width v : Nat) : Bool := decide (v < 2 ^ width)

/-- Every operand fits its field. -/
def WellFormed : Instr → Bool
  | .wr8 a => fitsField 32 a
  | .wr16 a => fitsField 32 a
  | .wr24 a => fitsField 32 a
  | .wr32 a => fitsField 32 a
  | .wrn sel n => fitsField 32 sel && fitsField 32 n
  | .setcur p => fitsField 32 p
  | .flush => true
  | .pack c p => fitsField 32 c && fitsField 32 p
  | .ser c p => fitsField 32 c && fitsField 32 p
  | .unpack b0 b1 => fitsField 32 b0 && fitsField 32 b1
  | .parse => true
  | .reset => true
  | .illegal0 => true
  | .illegalC => true
  | .illegalD => true
  | .illegalE => true
  | .recordHeader c p => fitsField 6 c && fitsField 10 p

end Sys2Proof
end

