-- ==== Sys2Proof/Decode.lean ====
section
/-! DEFINITION. Decoding a command word (R99, R100, R101) and a record header (R91, R92), and after it the encoder,
written from the same tables. The two encodings of the spec never compete: a command word arrives on the command
port, a record header on IN. -/

namespace Sys2Proof

/-- The bits of one instruction, with the encoding they stand in: a CMD68 command word or a WIRE_HDR16 header. -/
inductive CodeWord where
  | cmd68 (w : CommandWord)
  | hdr16 (h : HeaderWord)
deriving DecidableEq, Repr

/-- Why bits are no instruction. -/
inductive DecodeError where
  /-- No encoding of the spec has that many bits: there are 68-bit commands and 16-bit headers (R91, R99). -/
  | noSuchLength (nbits : Nat)
  /-- The number needs more bits than the encoding has. -/
  | tooWide (nbits : Nat)
  /-- Fewer than the two bytes of a record header are left on the wire (R143). -/
  | shortHeader
deriving DecidableEq, Repr

/-- `op = word[67:64]` (R99). -/
def opField (w : CommandWord) : BitVec 4 := w.extractLsb' 64 4
/-- `a = word[63:32]` (R99). -/
def aField (w : CommandWord) : Nat := (w.extractLsb' 32 32).toNat
/-- `b = word[31:0]` (R99). -/
def bField (w : CommandWord) : Nat := (w.extractLsb' 0 32).toNat

/-- The operation codes (R100, R101), by the bits of `op`, the most significant first. A decoder looks at `op`
alone, and the fields R100 marks `ignored` are not read (R102). -/
def decodeFields (op : BitVec 4) (a b : Nat) : Instr :=
  match op.getLsbD 3, op.getLsbD 2, op.getLsbD 1, op.getLsbD 0 with
  | false, false, false, false => .illegal0
  | false, false, false, true  => .wr8 a
  | false, false, true,  false => .wr16 a
  | false, false, true,  true  => .wr24 a
  | false, true,  false, false => .wr32 a
  | false, true,  false, true  => .wrn a b
  | false, true,  true,  false => .setcur a
  | false, true,  true,  true  => .flush
  | true,  false, false, false => .pack a b
  | true,  false, false, true  => .ser a b
  | true,  false, true,  false => .unpack a b
  | true,  false, true,  true  => .parse
  | true,  true,  false, false => .illegalC
  | true,  true,  false, true  => .illegalD
  | true,  true,  true,  false => .illegalE
  | true,  true,  true,  true  => .reset

/-- The instruction a command word names. Total: each of the 16 codes has one. -/
def decodeCommand (w : CommandWord) : Instr := decodeFields (opField w) (aField w) (bField w)

/-- The two sizes of a header word: c in bits 15:10, p in bits 9:0 (R91). -/
def decodeHeader (h : HeaderWord) : Instr :=
  .recordHeader (h.extractLsb' 10 6).toNat (h.extractLsb' 0 10).toNat

/-- The instruction of a code word. Total: every command word and every header word is one (R98, R100, R101). -/
def decode : CodeWord → Instr
  | .cmd68 w => decodeCommand w
  | .hdr16 h => decodeHeader h

/-- `{b0, b1}`: the header word of the two bytes, b0 the first on the wire and the more significant (R61, R62). -/
def headerOfBytes (b0 b1 : Byte) : HeaderWord := b0 ++ b1

/-- Decoding from the wire: the header at the front of a byte sequence, and the bytes after it (R96). -/
def decodeWire : List Byte → Except DecodeError (Instr × List Byte)
  | b0 :: b1 :: rest => .ok (decodeHeader (headerOfBytes b0 b1), rest)
  | [_] => .error .shortHeader
  | [] => .error .shortHeader

/-- Decoding any number of bits: 68 bits are a command word, 16 bits a header; anything else is rejected by name. -/
def decodeRaw (nbits w : Nat) : Except DecodeError Instr :=
  if nbits = 68 then
    if w < 2 ^ 68 then .ok (decode (.cmd68 (BitVec.ofNat 68 w))) else .error (.tooWide 68)
  else if nbits = 16 then
    if w < 2 ^ 16 then .ok (decode (.hdr16 (BitVec.ofNat 16 w))) else .error (.tooWide 16)
  else .error (.noSuchLength nbits)

/-- The encoding a row of spec/opcode_table.json uses: its header row has 16 bits, its command rows 68 (72 in whole
bytes). -/
def tableWidth (nbits : Nat) : Nat := if nbits ≤ 16 then 16 else 68

/-- What this decoder reads from the bits of a table row, bit 0 the least significant, as the table numbers them. -/
def decodeTableWord (nbits w : Nat) : Option Instr := (decodeRaw (tableWidth nbits) w).toOption

/-- A command word from its three fields (R99). -/
def commandWord (op : BitVec 4) (a b : Nat) : CommandWord := op ++ BitVec.ofNat 32 a ++ BitVec.ofNat 32 b

/-- A header word from its two fields (R91). -/
def headerWord (c p : Nat) : HeaderWord := BitVec.ofNat 6 c ++ BitVec.ofNat 10 p

/-- The encoder: the canonical words of R100, with 0 in every ignored field (R102). -/
def encode : Instr → CodeWord
  | .illegal0 => .cmd68 (commandWord 0x0#4 0 0)
  | .wr8 a => .cmd68 (commandWord 0x1#4 a 0)
  | .wr16 a => .cmd68 (commandWord 0x2#4 a 0)
  | .wr24 a => .cmd68 (commandWord 0x3#4 a 0)
  | .wr32 a => .cmd68 (commandWord 0x4#4 a 0)
  | .wrn sel n => .cmd68 (commandWord 0x5#4 sel n)
  | .setcur p => .cmd68 (commandWord 0x6#4 p 0)
  | .flush => .cmd68 (commandWord 0x7#4 0 0)
  | .pack c p => .cmd68 (commandWord 0x8#4 c p)
  | .ser c p => .cmd68 (commandWord 0x9#4 c p)
  | .unpack b0 b1 => .cmd68 (commandWord 0xA#4 b0 b1)
  | .parse => .cmd68 (commandWord 0xB#4 0 0)
  | .illegalC => .cmd68 (commandWord 0xC#4 0 0)
  | .illegalD => .cmd68 (commandWord 0xD#4 0 0)
  | .illegalE => .cmd68 (commandWord 0xE#4 0 0)
  | .reset => .cmd68 (commandWord 0xF#4 0 0)
  | .recordHeader c p => .hdr16 (headerWord c p)

end Sys2Proof
end

