-- ==== Sys2Proof/Config.lean ====
section
/-! DEFINITION. What is fixed for one block: the implementation parameters of R6, and the values the spec leaves
open. `OBUF_CAP` is the one open parameter (D6), so it is a field; the others are fixed by the record format. -/

namespace Sys2Proof

/-- The four byte-addressed buffers, each an address space of its own starting at 0 (R60). -/
inductive Buf where
  | obuf | cfgbuf | paybuf | rxbuf
deriving DecidableEq, Repr

/-- The parameters of one block that are open: `OBUF_CAP`, any natural number at least 4 (R6, D6). -/
structure Config where
  obufCap : Nat
deriving DecidableEq, Repr

namespace Config

/-- `HDR_BYTES`: bytes in the record header (R6). -/
@[simp] abbrev hdrBytes : Nat := 2
/-- `CFG_MAX`: largest configuration size, `2^6 - 1` (R6). -/
@[simp] abbrev cfgMax : Nat := 63
/-- `PAY_MAX`: largest payload size, `2^10 - 1` (R6). -/
@[simp] abbrev payMax : Nat := 1023
/-- `PKT_MAX`: largest packet size (R6). -/
@[simp] abbrev pktMax : Nat := 1086
/-- `UNIT_MAX`: largest record (R6). -/
@[simp] abbrev unitMax : Nat := 1088
/-- `CFGBUF_CAP` (R6). -/
@[simp] abbrev cfgbufCap : Nat := 63
/-- `PAYBUF_CAP` (R6). -/
@[simp] abbrev paybufCap : Nat := 1023
/-- `RXBUF_CAP` (R6). -/
@[simp] abbrev rxbufCap : Nat := 1086

/-- The default of the open parameter: `OBUF_CAP = UNIT_MAX` (R6). -/
def standard : Config := ⟨unitMax⟩

/-- The constraint R6 puts on the parameter: at least 4. -/
abbrev wf (c : Config) : Prop := 4 ≤ c.obufCap

/-- `WCUR_W`, the smallest n with `2^n > OBUF_CAP` (R22). -/
def wcurWidth (c : Config) : Nat := Nat.log2 c.obufCap + 1

/-- Capacity in bytes of each buffer (R60). -/
def capacity (c : Config) : Buf → Nat
  | .obuf => c.obufCap
  | .cfgbuf => cfgbufCap
  | .paybuf => paybufCap
  | .rxbuf => rxbufCap

end Config

/-- FREE VALUE. What a buffer byte that nothing has written since the last reset holds: an arbitrary byte drawn at
that reset (R44, D29, U6). Arguments: which draw (one for each reset), which buffer, which address. It has no body,
so no proof can see a value of it. -/
opaque Config.freeByte : Nat → Buf → Nat → Byte

/-- FREE VALUE. What the 32-bit status read port shows of WCUR or WLEN when it holds a value of 2^32 or more, which
needs an `OBUF_CAP` of at least 2^32: R41 states no result there. It has no body. -/
opaque Config.freeWideRead : Nat → BitVec 32

end Sys2Proof
end

