-- ==== Sys2Proof/Machine/State.lean ====
section
/-! DEFINITION. The state of the block (R20, R22 to R38), with the two streams that are the environment's part of it;
beside it the parameter, the host's next moves and the draw that a step is a function of too; the reasons a step can
stop; and the state after reset (R43). Plain data throughout. -/

namespace Sys2Proof.Machine

/-- The result of an operation, the values of STATUS (R34). The values 7 to 15 never occur (U11). -/
inductive Status where
  | ok | eos | eTruncated | eFieldTooLarge | eOverflow | eValueRange | eIllegal
deriving DecidableEq, Repr

/-- The parser phase PH (R32). The values 5 to 7 never occur (U11). -/
inductive Phase where
  | hdr0 | hdr1 | body | done | error
deriving DecidableEq, Repr

/-- The two buffers the host writes and WRN and SER copy from (R24, R25). -/
inductive Source where
  | cfg | pay
deriving DecidableEq, Repr

/-- The contents of one buffer: the bytes written since the last reset, by address, addresses strictly rising. An
address that is not listed holds no defined value (R44). -/
abbrev Memory := List Host.Cell

/-- What comes after the bytes of an input stream: its end, or a source that never presents another token (R37,
R221). -/
inductive StreamEnd where
  | eos | never
deriving DecidableEq, Repr

/-- IN, the input stream: the bytes still to arrive, in order, and what follows them (R37, R67). -/
structure InStream where
  bytes : List Byte
  ending : StreamEnd
deriving DecidableEq, Repr

/-- OUT, the output stream: the bytes of each append, oldest first, and how many more bytes the sink will ever
accept, `none` for a sink that always accepts in the end (R38, R70, R221). The last byte of each append is the one
the output port marks (R218). -/
structure OutStream where
  units : List (List Byte)
  accepts : Option Nat
deriving DecidableEq, Repr

/-- One move of the host or the environment, made while the block is idle (R79, R218). -/
inductive HostMove where
  /-- The host presents one command word (R99). -/
  | command (w : CommandWord)
  /-- The host writes one byte of CFGBUF or PAYBUF through the source write port (R24, R25, R254). -/
  | load (src : Source) (addr : Nat) (v : Byte)
  /-- The environment attaches an input stream in place of the one there was (R243). -/
  | attach (stream : InStream)
  /-- Hardware reset, applied while the block is idle (R240, R242). -/
  | hardReset
deriving DecidableEq, Repr

/-- The complete state of the block, exactly the fields of R20 and nothing else. -/
structure Block where
  /-- WCUR, the address in OBUF of the next byte to write (R22). -/
  wcur : Nat
  /-- OBUF, the output buffer (R23). -/
  obuf : Memory
  /-- CFGBUF, the configuration source buffer (R24). -/
  cfgbuf : Memory
  /-- PAYBUF, the payload source buffer (R25). -/
  paybuf : Memory
  /-- HDR, the header PACK or SER computed last (R27). -/
  hdr : BitVec 16
  /-- WLEN, the length of the unit appended last (R28). -/
  wlen : Nat
  /-- PH, the parser phase (R32). -/
  ph : Phase
  /-- B0, the first header byte (R29). -/
  b0 : Byte
  /-- B1, the second header byte (R29). -/
  b1 : Byte
  /-- HGOT, how many header bytes the last PARSE obtained (R29). -/
  hgot : BitVec 2
  /-- XSZ, the configuration size of the header (R30). -/
  xsz : BitVec 6
  /-- FSZ, the payload size of the header (R30). -/
  fsz : BitVec 10
  /-- PSZ, the packet size (R30). -/
  psz : BitVec 11
  /-- GOT, how many packet bytes the last PARSE stored (R31). -/
  got : BitVec 11
  /-- RECV, the record-valid flag (R36). -/
  recv : Bool
  /-- RXBUF, the receive buffer (R26). -/
  rxbuf : Memory
  /-- STATUS, the result of the most recent operation (R34). -/
  status : Status
  /-- FLAGS, the sticky event flags (R35). -/
  flags : BitVec 6
  /-- IN, the input stream (R37). -/
  inp : InStream
  /-- OUT, the output stream (R38). -/
  out : OutStream
deriving DecidableEq, Repr

/-- All that a step of the package's interface is a function of: the block's state and, beside it, what R20 says is no
state of the block. -/
structure State extends Block where
  /-- NO STATE (R20): the parameters the block was built with (R6). No step changes them. -/
  cfg : Config
  /-- NO STATE, MODEL'S OWN: which draw of arbitrary bytes the unwritten buffer bytes hold; every reset makes a new one
  (R44). -/
  draw : Nat
  /-- NO STATE (R20), MODEL'S OWN: the moves the host and the environment make next, the next one first. The sequence
  of commands is the host's free choice; no operation reads or changes it. -/
  host : List HostMove
deriving DecidableEq, Repr

/-- Why a step is stuck: the operation never ends, so the block takes no further step (R151, R221, U10). -/
inductive Fault where
  /-- PARSE waits for a token the source never presents. Raised by PARSE, and by the header it reads. Safe: the spec
  gives the operation no end, and the model adds none. -/
  | inputStalled
  /-- FLUSH or SER waits for a sink that never accepts its bytes. Raised by FLUSH and SER. Safe: as above. -/
  | outputStalled
deriving DecidableEq, Repr

/-- Why the model gives a step no meaning. -/
inductive Refusal where
  /-- An instruction without a meaning in this model. Raised by an arm of `exec` only. Safe. -/
  | notModelled (mnemonic : String)
  /-- A host write to an address at or above the capacity of the source buffer: a model gives the host no such move
  (R73, U7). Raised by `load`. Safe. -/
  | hostAddressBeyondBuffer (src : Source) (addr : Nat)
  /-- A stream attached while PH is not HDR0: the move is allowed only in that phase (R243). Raised by `attach`.
  Safe. -/
  | attachOutsideHdr0
deriving DecidableEq, Repr

/-- Every register as R43 gives it, every buffer byte unwritten, and, for the environment, an input stream that has
ended, nothing appended to OUT, a sink that accepts, and a host that makes no move. -/
def State.resetWith (c : Config) : State where
  cfg := c
  wcur := 0
  obuf := []
  cfgbuf := []
  paybuf := []
  hdr := 0#16
  wlen := 0
  ph := .hdr0
  b0 := 0#8
  b1 := 0#8
  hgot := 0#2
  xsz := 0#6
  fsz := 0#10
  psz := 0#11
  got := 0#11
  recv := false
  rxbuf := []
  status := .ok
  flags := 0#6
  inp := ⟨[], .eos⟩
  out := ⟨[], none⟩
  draw := 0
  host := []

/-- The machine right after reset (R43, R241), built with the default parameters of R6. -/
def State.reset : State := State.resetWith Config.standard

end Sys2Proof.Machine
end

