-- ==== Sys2Proof/Machine/Flags.lean ====
section
/-! DEFINITION. The codes of STATUS and PH (R32, R34, R103) and the sticky flags (R35). -/

namespace Sys2Proof.Machine

/-- The value STATUS holds for a result (R34, R103). -/
def Status.code : Status → BitVec 4
  | .ok => 0
  | .eos => 1
  | .eTruncated => 2
  | .eFieldTooLarge => 3
  | .eOverflow => 4
  | .eValueRange => 5
  | .eIllegal => 6

/-- The value PH holds for a phase (R32). -/
def Phase.code : Phase → BitVec 3
  | .hdr0 => 0
  | .hdr1 => 1
  | .body => 2
  | .done => 3
  | .error => 4

/-- The flag of a result: bit k for STATUS value k + 1, none for OK (R35). -/
def Status.flagMask : Status → BitVec 6
  | .ok => 0b000000
  | .eos => 0b000001
  | .eTruncated => 0b000010
  | .eFieldTooLarge => 0b000100
  | .eOverflow => 0b001000
  | .eValueRange => 0b010000
  | .eIllegal => 0b100000

/-- The phase a result puts the parser in: DONE for EOS, ERROR for E_TRUNCATED, otherwise the phase it was in
(R210). -/
def Status.phaseAfter (r : Status) (ph : Phase) : Phase :=
  match r with
  | .eos => .done
  | .eTruncated => .error
  | .ok => ph
  | .eFieldTooLarge => ph
  | .eOverflow => ph
  | .eValueRange => ph
  | .eIllegal => ph

end Sys2Proof.Machine
end

