-- ==== Sys2Proof/Machine/Operands.lean ====
section
/-! DEFINITION. What the operations make of their operands: big-endian bytes (R61), the header arithmetic of the
payload_length_codec and the frame_header_packer (R92, R93, R94), and the source WRN's operand selects (R125). -/

namespace Sys2Proof.Machine

/-- The k-byte big-endian form of a value: byte j is `v[8(k-j)-1 : 8(k-j-1)]`, the most significant first (R61). -/
def bytesBE : Nat → Nat → List Byte
  | 0, _ => []
  | k + 1, v => BitVec.ofNat 8 (v >>> (8 * k)) :: bytesBE k v

/-- `extradataSize = b0 >> 2` (R92). -/
def extradataSize (b0 : Byte) : BitVec 6 := BitVec.ofNat 6 (b0.toNat >>> 2)

/-- `framedataSize = ((b0 & 0x03) << 8) | b1` (R92). -/
def framedataSize (b0 b1 : Byte) : BitVec 10 := BitVec.ofNat 10 (((b0.toNat &&& 0x03) <<< 8) ||| b1.toNat)

/-- `packetSize = extradataSize + framedataSize` (R94). -/
def packetSize (x : BitVec 6) (f : BitVec 10) : BitVec 11 := BitVec.ofNat 11 (x.toNat + f.toNat)

/-- `value = (c << 10) | p` (R93). Used after both sizes have passed their range check. -/
def packHeader (c p : Nat) : BitVec 16 := BitVec.ofNat 16 ((c <<< 10) ||| p)

/-- `H[15:8]`, the first header byte on the wire (R91). -/
def headerByte0 (h : BitVec 16) : Byte := h.extractLsb' 8 8

/-- `H[7:0]`, the second header byte (R91). -/
def headerByte1 (h : BitVec 16) : Byte := h.extractLsb' 0 8

/-- Both sizes fit their header fields (R170, R171): the check whose failure is E_FIELD_TOO_LARGE. -/
def sizesFit (c p : Nat) : Bool := decide (c ≤ Config.cfgMax) && decide (p ≤ Config.payMax)

/-- The buffer WRN's operand `a` selects: 0 is CFG, 1 is PAY, anything else no buffer (R125). -/
def sourceOf : Nat → Option Source
  | 0 => some .cfg
  | 1 => some .pay
  | _ => none

/-- The buffer a source is. -/
def Source.buf : Source → Buf
  | .cfg => .cfgbuf
  | .pay => .paybuf

end Sys2Proof.Machine
end

