-- ==== Sys2Proof/Machine/Ops.lean ====
section
/-! DEFINITION. The named operations: buffers (R10, R60), the streams (R67 to R70), ending an operation with its
result (R10, R200, R210) and, beside it, the reset that alone takes the sticky part of a result back (R190, R212),
and the register updates the meanings are made of. -/

namespace Sys2Proof.Machine

/-! ### Buffers -/

/-- The byte at an address, `none` where nothing has been written since the last reset (R44). -/
def Memory.read? : Memory → Nat → Option Byte
  | [], _ => none
  | c :: rest, a => if a = c.1 then some c.2 else Memory.read? rest a

/-- Write one byte, keeping the addresses strictly rising. -/
def Memory.write : Memory → Nat → Byte → Memory
  | [], a, v => [(a, v)]
  | c :: rest, a, v =>
    if a < c.1 then (a, v) :: c :: rest
    else if a = c.1 then (a, v) :: rest
    else c :: Memory.write rest a v

/-- `MemWrite(S, addr, len(s), s)` (R10): consecutive bytes, the first at `addr`. -/
def Memory.writeBytes : Memory → Nat → List Byte → Memory
  | m, _, [] => m
  | m, a, v :: vs => Memory.writeBytes (m.write a v) (a + 1) vs

/-- The canonical form: addresses strictly rising. An unlisted address reads as no byte, so no entry can repeat what
an unlisted address reads as. -/
def Memory.wf : Memory → Bool
  | [] => true
  | [_] => true
  | c :: d :: rest => decide (c.1 < d.1) && Memory.wf (d :: rest)

/-- Every listed address lies below the capacity (R60). -/
def Memory.within (cap : Nat) (m : Memory) : Bool := m.all fun c => decide (c.1 < cap)

/-- The contents of a buffer. -/
def State.mem (s : State) : Buf → Memory
  | .obuf => s.obuf
  | .cfgbuf => s.cfgbuf
  | .paybuf => s.paybuf
  | .rxbuf => s.rxbuf

/-- The byte at an address of a buffer: the byte written there, or the arbitrary byte of this draw (R44). -/
def State.byteAt (s : State) (b : Buf) (a : Nat) : Byte :=
  match (s.mem b).read? a with
  | some v => v
  | none => Config.freeByte s.draw b a

/-- `MemRead(S, addr, n)` (R10). -/
def State.readBytes (s : State) (b : Buf) : Nat → Nat → List Byte
  | _, 0 => []
  | a, n + 1 => s.byteAt b a :: s.readBytes b (a + 1) n

/-! ### Register updates -/

/-- `MemWrite(OBUF, addr, len(bs), bs)`. -/
def State.storeObuf (addr : Nat) (bs : List Byte) (s : State) : State :=
  { s with obuf := s.obuf.writeBytes addr bs }

/-- `WCUR <- n`. -/
def State.setCursor (n : Nat) (s : State) : State := { s with wcur := n }

/-- `HDR <- h`. -/
def State.setHeader (h : BitVec 16) (s : State) : State := { s with hdr := h }

/-- `WLEN <- n ; WCUR <- 0`, the end of an append (R127, R171). -/
def State.committed (n : Nat) (s : State) : State := { s with wlen := n, wcur := 0 }

/-- `B0 <- b0 ; B1 <- b1` and the three lengths they give (R140, R141). -/
def State.setLengths (b0 b1 : Byte) (s : State) : State :=
  { s with
    b0 := b0
    b1 := b1
    xsz := extradataSize b0
    fsz := framedataSize b0 b1
    psz := packetSize (extradataSize b0) (framedataSize b0 b1) }

/-- `RECV <- 0` (R140). -/
def State.clearRecord (s : State) : State := { s with recv := false }

/-- The start action of PARSE: RECV, HGOT, GOT, the header bytes and the lengths are cleared (R141, R146). -/
def State.startParse (s : State) : State :=
  { s with
    recv := false
    hgot := 0#2
    got := 0#11
    b0 := 0#8
    b1 := 0#8
    xsz := 0#6
    fsz := 0#10
    psz := 0#11 }

/-- The first header byte has arrived: `B0 <- v ; HGOT <- 1` (R147). -/
def State.takeByte0 (v : Byte) (s : State) : State := { s with b0 := v, hgot := 1#2 }

/-- The second header byte has arrived: `B1 <- v ; HGOT <- 2`, and the lengths are decoded (R148). -/
def State.takeByte1 (v : Byte) (s : State) : State := { s.setLengths s.b0 v with hgot := 2#2 }

/-- `MemWrite(RXBUF, 0, len(r), r) ; GOT <- len(r)` (R141). -/
def State.storePacket (r : List Byte) (s : State) : State :=
  { s with rxbuf := s.rxbuf.writeBytes 0 r, got := BitVec.ofNat 11 r.length }

/-- `RXBUF[GOT] <- v ; GOT <- GOT + 1` (R149). -/
def State.storePacketByte (v : Byte) (s : State) : State :=
  { s with rxbuf := s.rxbuf.write s.got.toNat v, got := s.got + 1#11 }

/-- `PH <- p`. -/
def State.setPhase (p : Phase) (s : State) : State := { s with ph := p }

/-- `RECV <- 1 ; PH <- HDR0`, the record is complete (R141, R149). -/
def State.deliver (s : State) : State := { s with recv := true, ph := .hdr0 }

/-- IN is replaced. -/
def State.setIn (i : InStream) (s : State) : State := { s with inp := i }

/-- OUT is replaced. -/
def State.setOut (o : OutStream) (s : State) : State := { s with out := o }

/-- The host's moves are replaced. -/
def State.setHost (h : List HostMove) (s : State) : State := { s with host := h }

/-- The host writes one byte of a source buffer (R24, R25). -/
def State.loadSource (src : Source) (a : Nat) (v : Byte) (s : State) : State :=
  { s with
    cfgbuf := match src with
      | .cfg => s.cfgbuf.write a v
      | .pay => s.cfgbuf
    paybuf := match src with
      | .cfg => s.paybuf
      | .pay => s.paybuf.write a v }

/-! ### Ending an operation, and reset -/

/-- How every operation ends, with OK or with one of the other results (R10 `done`, `raise`; R200, R210): STATUS
takes the result, FLAGS its sticky flag, and the two stream results set PH. Nothing else changes: no register is
saved, no mode is switched and control goes nowhere. -/
def State.finish (r : Status) (s : State) : State :=
  { s with status := r, flags := s.flags ||| r.flagMask, ph := r.phaseAfter s.ph }

/-- What takes a result back: there is no return from one (R212), and only this clears the sticky flags and leaves
DONE and ERROR. The transition of hardware reset and of RESET (R190, R242): every register as in R43, every buffer
byte unspecified, the streams untouched. -/
def State.resetBlock (s : State) : State :=
  { s with
    status := .ok
    flags := 0#6
    ph := .hdr0
    recv := false
    hgot := 0#2
    b0 := 0#8
    b1 := 0#8
    xsz := 0#6
    fsz := 0#10
    psz := 0#11
    got := 0#11
    hdr := 0#16
    wlen := 0
    wcur := 0
    obuf := []
    cfgbuf := []
    paybuf := []
    rxbuf := []
    draw := s.draw + 1 }

/-! ### The streams -/

/-- `OUT.bytes` (R38). -/
def OutStream.bytes (o : OutStream) : List Byte := o.units.flatten

/-- One token of the input stream (R69). -/
inductive Token where
  | byte (v : Byte)
  | eos
deriving DecidableEq, Repr

/-- `InRead(n)` (R68): the bytes and the state after it, or `none` where it waits for ever. `InRead(0)` returns at
once. -/
def inRead (n : Nat) (s : State) : Option (List Byte × State) :=
  if n ≤ s.inp.bytes.length then
    some (s.inp.bytes.take n, s.setIn ⟨s.inp.bytes.drop n, s.inp.ending⟩)
  else
    match s.inp.ending with
    | .eos => some (s.inp.bytes, s.setIn ⟨[], .eos⟩)
    | .never => none

/-- `InNext()` (R69): the token and the state after it, or `none` where it waits for ever. `eos` is not consumed. -/
def inNext (s : State) : Option (Token × State) :=
  match s.inp.bytes with
  | v :: rest => some (.byte v, s.setIn ⟨rest, s.inp.ending⟩)
  | [] =>
    match s.inp.ending with
    | .eos => some (.eos, s)
    | .never => none

/-- `OutAppend(u)` (R70): one indivisible append, or `none` where the sink never takes all of it. Appending nothing
changes nothing. -/
def outAppend (u : List Byte) (s : State) : Option State :=
  match u with
  | [] => some s
  | _ :: _ =>
    match s.out.accepts with
    | none => some (s.setOut ⟨s.out.units ++ [u], none⟩)
    | some k =>
      if u.length ≤ k then some (s.setOut ⟨s.out.units ++ [u], some (k - u.length)⟩) else none

/-! ### The shared shape of the writes -/

/-- What WR8 to WRN share once their operands have passed (R120): the bytes fit below `OBUF_CAP` and are written at
the cursor, which moves past them, or nothing is written and the result is E_OVERFLOW. -/
def writeAtCursor (bs : List Byte) (s : State) : State :=
  if s.cfg.obufCap < s.wcur + bs.length then s.finish .eOverflow
  else ((s.storeObuf s.wcur bs).setCursor (s.wcur + bs.length)).finish .ok

/-- The end of FLUSH and SER: `n` bytes of OBUF go to OUT as one unit, then `WLEN <- n ; WCUR <- 0 ; done OK`
(R127, R171). -/
def appendUnit (n : Nat) (s : State) : Host.Outcome State Fault Refusal :=
  match outAppend (s.readBytes .obuf 0 n) s with
  | none => .fault .outputStalled
  | some s1 => .next ((s1.committed n).finish .ok)

end Sys2Proof.Machine
end

