-- ==== Sys2Proof/Machine/ByteWriter.lean ====
section
/-! DEFINITION. The byte_writer operations (R120 to R127): WR8, WR16, WR24, WR32, WRN, SETCUR, FLUSH. -/

namespace Sys2Proof.Machine

/-- WR8 (R121). -/
def execWr8 (a : Nat) (s : State) : Host.Outcome State Fault Refusal :=
  if a > 0xFF then .next (s.finish .eValueRange) else .next (writeAtCursor (bytesBE 1 a) s)

/-- WR16 (R122). -/
def execWr16 (a : Nat) (s : State) : Host.Outcome State Fault Refusal :=
  if a > 0xFFFF then .next (s.finish .eValueRange) else .next (writeAtCursor (bytesBE 2 a) s)

/-- WR24 (R123). -/
def execWr24 (a : Nat) (s : State) : Host.Outcome State Fault Refusal :=
  if a > 0xFFFFFF then .next (s.finish .eValueRange) else .next (writeAtCursor (bytesBE 3 a) s)

/-- WR32 (R124). -/
def execWr32 (a : Nat) (s : State) : Host.Outcome State Fault Refusal :=
  .next (writeAtCursor (bytesBE 4 a) s)

/-- WRN (R125): `a` selects the source, `b` bytes of it from address 0 are copied. -/
def execWrn (a b : Nat) (s : State) : Host.Outcome State Fault Refusal :=
  match sourceOf a with
  | none => .next (s.finish .eValueRange)
  | some src =>
    if b > s.cfg.capacity src.buf then .next (s.finish .eValueRange)
    else .next (writeAtCursor (s.readBytes src.buf 0 b) s)

/-- SETCUR (R126). -/
def execSetcur (p : Nat) (s : State) : Host.Outcome State Fault Refusal :=
  if p > s.cfg.obufCap then .next (s.finish .eOverflow) else .next ((s.setCursor p).finish .ok)

/-- FLUSH (R127). -/
def execFlush (s : State) : Host.Outcome State Fault Refusal := appendUnit s.wcur s

end Sys2Proof.Machine
end

