-- ==== Sys2Proof/Machine/Packer.lean ====
section
/-! DEFINITION. The frame_header_packer operations (R170, R171): PACK and SER. -/

namespace Sys2Proof.Machine

/-- PACK (R170). -/
def execPack (c p : Nat) (s : State) : Host.Outcome State Fault Refusal :=
  if sizesFit c p then .next ((s.setHeader (packHeader c p)).finish .ok)
  else .next (s.finish .eFieldTooLarge)

/-- The unit SER builds from OBUF address 0: the header, `c` bytes of CFGBUF, `p` bytes of PAYBUF (R171). -/
def buildUnit (c p : Nat) (s : State) : State :=
  (((s.setHeader (packHeader c p)).storeObuf 0 (bytesBE 2 (packHeader c p).toNat)).storeObuf 2
      (s.readBytes .cfgbuf 0 c)).storeObuf (2 + c) (s.readBytes .paybuf 0 p)

/-- SER (R171): all checks come before all writes. -/
def execSer (c p : Nat) (s : State) : Host.Outcome State Fault Refusal :=
  if sizesFit c p then
    if 2 + c + p > s.cfg.obufCap then .next (s.finish .eOverflow)
    else appendUnit (2 + c + p) (buildUnit c p s)
  else .next (s.finish .eFieldTooLarge)

end Sys2Proof.Machine
end

