-- ==== Sys2Proof/Machine/Parser.lean ====
section
/-! DEFINITION. The payload_length_codec and partial_read_detector operations at transaction level (R140 to R145):
UNPACK and PARSE, and the record header that PARSE takes from the wire (R91). -/

namespace Sys2Proof.Machine

/-- UNPACK (R140). -/
def execUnpack (b0 b1 : Nat) (s : State) : Host.Outcome State Fault Refusal :=
  if b0 > 0xFF ∨ b1 > 0xFF then .next (s.finish .eValueRange)
  else .next ((s.setLengths (BitVec.ofNat 8 b0) (BitVec.ofNat 8 b1)).clearRecord.finish .ok)

/-- The packet of the header that was read: `r <- InRead(PSZ)` and what R141 does with it. -/
def receivePacket (s : State) : Host.Outcome State Fault Refusal :=
  match inRead s.psz.toNat s with
  | none => .fault .inputStalled
  | some (r, s1) =>
    if r.length < s.psz.toNat then .next ((s1.storePacket r).finish .eTruncated)
    else .next ((s1.storePacket r).deliver.finish .ok)

/-- A PARSE from the point where it has obtained both header bytes (R141). -/
def receiveRecord (b0 b1 : Byte) (s : State) : Host.Outcome State Fault Refusal :=
  receivePacket ((s.takeByte0 b0).takeByte1 b1)

/-- What a PARSE does once it is past its phase check (R141): the start action, then `h <- InRead(2)`. -/
def parseRecord (s : State) : Host.Outcome State Fault Refusal :=
  match inRead 2 s.startParse with
  | none => .fault .inputStalled
  | some ([], s1) => .next (s1.finish .eos)
  | some ([v], s1) => .next ((s1.takeByte0 v).finish .eos)
  | some (v0 :: v1 :: _, s1) => receiveRecord v0 v1 s1

/-- PARSE (R141, R145): in DONE and in ERROR nothing is read. HDR1 and BODY never stand between operations (R32);
R141 tests for DONE and ERROR only, so they go on as HDR0 does. -/
def execParse (s : State) : Host.Outcome State Fault Refusal :=
  match s.ph with
  | .done => .next (s.finish .eos)
  | .error => .next (s.finish .eTruncated)
  | .hdr0 => parseRecord s
  | .hdr1 => parseRecord s
  | .body => parseRecord s

/-- A record header that a PARSE has taken from the wire, both bytes at once: the header is decoded and the packet
it declares is read (R91, R92, R141). In DONE and in ERROR the parser takes no header, and the PARSE ends as R145
says. -/
def execRecordHeader (c p : Nat) (s : State) : Host.Outcome State Fault Refusal :=
  match s.ph with
  | .done => .next (s.finish .eos)
  | .error => .next (s.finish .eTruncated)
  | .hdr0 => receiveRecord (headerByte0 (headerWord c p)) (headerByte1 (headerWord c p)) s.startParse
  | .hdr1 => receiveRecord (headerByte0 (headerWord c p)) (headerByte1 (headerWord c p)) s.startParse
  | .body => receiveRecord (headerByte0 (headerWord c p)) (headerByte1 (headerWord c p)) s.startParse

end Sys2Proof.Machine
end

