-- ==== Sys2Proof/Machine/System.lean ====
section
/-! DEFINITION. The system operations (R190, R191): RESET, and the four command codes that name no operation. -/

namespace Sys2Proof.Machine

/-- RESET (R190): the transition of hardware reset, ended OK. -/
def execReset (s : State) : Host.Outcome State Fault Refusal := .next (s.resetBlock.finish .ok)

/-- Code 0x0 (R191): the operation ends E_ILLEGAL. -/
def execIllegal0 (s : State) : Host.Outcome State Fault Refusal := .next (s.finish .eIllegal)

/-- Code 0xC (R191). -/
def execIllegalC (s : State) : Host.Outcome State Fault Refusal := .next (s.finish .eIllegal)

/-- Code 0xD (R191). -/
def execIllegalD (s : State) : Host.Outcome State Fault Refusal := .next (s.finish .eIllegal)

/-- Code 0xE (R191). -/
def execIllegalE (s : State) : Host.Outcome State Fault Refusal := .next (s.finish .eIllegal)

end Sys2Proof.Machine
end

