-- ==== Sys2Proof/Machine/Dispatch.lean ====
section
/-! DEFINITION. One arm for each instruction. -/

namespace Sys2Proof.Machine

def exec (i : Instr) (s : State) : Host.Outcome State Fault Refusal :=
  match i with
  | .wr8 a => Sys2Proof.Machine.execWr8 a s
  | .wr16 a => Sys2Proof.Machine.execWr16 a s
  | .wr24 a => Sys2Proof.Machine.execWr24 a s
  | .wr32 a => Sys2Proof.Machine.execWr32 a s
  | .wrn sel n => Sys2Proof.Machine.execWrn sel n s
  | .setcur p => Sys2Proof.Machine.execSetcur p s
  | .flush => Sys2Proof.Machine.execFlush s
  | .pack c p => Sys2Proof.Machine.execPack c p s
  | .ser c p => Sys2Proof.Machine.execSer c p s
  | .unpack v0 v1 => Sys2Proof.Machine.execUnpack v0 v1 s
  | .parse => Sys2Proof.Machine.execParse s
  | .reset => Sys2Proof.Machine.execReset s
  | .illegal0 => Sys2Proof.Machine.execIllegal0 s
  | .illegalC => Sys2Proof.Machine.execIllegalC s
  | .illegalD => Sys2Proof.Machine.execIllegalD s
  | .illegalE => Sys2Proof.Machine.execIllegalE s
  | .recordHeader c p => Sys2Proof.Machine.execRecordHeader c p s

end Sys2Proof.Machine
end

