-- ==== Sys2Proof/Machine/Ports.lean ====
section
/-! DEFINITION. The host's ports (R41, R218, R254): the status read port, the buffer read port, and what a load and
an attach do. Reading has no side effect, so the two read ports are functions of the state and not moves. -/

namespace Sys2Proof.Machine

/-- A register that holds a natural number of width `WCUR_W`, as the 32-bit port shows it: zero-extended (R41). With
an `OBUF_CAP` of 2^32 or more it may hold a number that 32 bits do not; then what the port shows is left free. -/
def zeroExtendCursor (n : Nat) : BitVec 32 :=
  if n < 2 ^ 32 then BitVec.ofNat 32 n else Config.freeWideRead n

/-- The status read port (R41): the register of a number, zero-extended to 32 bits; 14 to 31 read as 0. -/
def State.readReg (s : State) (n : BitVec 5) : BitVec 32 :=
  match n.toNat with
  | 0 => s.status.code.setWidth 32
  | 1 => s.flags.setWidth 32
  | 2 => s.ph.code.setWidth 32
  | 3 => if s.recv then 1#32 else 0#32
  | 4 => s.hgot.setWidth 32
  | 5 => s.b0.setWidth 32
  | 6 => s.b1.setWidth 32
  | 7 => s.xsz.setWidth 32
  | 8 => s.fsz.setWidth 32
  | 9 => s.psz.setWidth 32
  | 10 => s.got.setWidth 32
  | 11 => s.hdr.setWidth 32
  | 12 => zeroExtendCursor s.wlen
  | 13 => zeroExtendCursor s.wcur
  | _ => 0#32

/-- The buffers the buffer read port reads: `buf_sel` = 0 is OBUF, 1 is RXBUF (R254). -/
def readPortBuf (sel : Bool) : Buf := if sel then .rxbuf else .obuf

/-- The buffer read port (R254): one byte of OBUF or RXBUF, `none` at or above the capacity, where the host has no
such move (R73). -/
def State.hostRead (s : State) (sel : Bool) (addr : Nat) : Option Byte :=
  if addr < s.cfg.capacity (readPortBuf sel) then some (s.byteAt (readPortBuf sel) addr) else none

/-- The configuration blob and the payload of the record delivered last, when there is one (R36, R142, D20). -/
def State.record? (s : State) : Option (List Byte × List Byte) :=
  if s.recv then
    some (s.readBytes .rxbuf 0 s.xsz.toNat, s.readBytes .rxbuf s.xsz.toNat s.fsz.toNat)
  else none

/-- The host writes one byte of CFGBUF or PAYBUF (R24, R25, R254). Beyond the capacity it has no such move (R73). -/
def performLoad (src : Source) (addr : Nat) (v : Byte) (s : State) : Host.Outcome State Fault Refusal :=
  if addr < s.cfg.capacity src.buf then .next (s.loadSource src addr v)
  else .refused (.hostAddressBeyondBuffer src addr)

/-- The environment replaces IN; allowed only while PH is HDR0 (R243). -/
def performAttach (stream : InStream) (s : State) : Host.Outcome State Fault Refusal :=
  match s.ph with
  | .hdr0 => .next (s.setIn stream)
  | .hdr1 => .refused .attachOutsideHdr0
  | .body => .refused .attachOutsideHdr0
  | .done => .refused .attachOutsideHdr0
  | .error => .refused .attachOutsideHdr0

end Sys2Proof.Machine
end

