-- ==== Sys2Proof/Machine/Moves.lean ====
section
/-! DEFINITION. One whole move of the host or the environment (R79), and how a word of the opcode table is placed
where the next step takes it. -/

namespace Sys2Proof.Machine

/-- What a move does. A command is decoded and run to its result (R7, R99). -/
def performMove (m : HostMove) (s : State) : Host.Outcome State Fault Refusal :=
  match m with
  | .command w => exec (decodeCommand w) s
  | .load src addr v => performLoad src addr v s
  | .attach stream => performAttach stream s
  | .hardReset => .next s.resetBlock

/-- The command word `w` is the host's next move. -/
def State.withCommand (w : CommandWord) (s : State) : State := s.setHost (.command w :: s.host)

/-- The header `h` is next on the wire and a PARSE, ready to take it, is the host's next move: PH is HDR0 (R141). -/
def State.withHeaderOnWire (h : HeaderWord) (s : State) : State :=
  ((s.setIn ⟨headerByte0 h :: headerByte1 h :: s.inp.bytes, s.inp.ending⟩).setPhase .hdr0).withCommand
    (commandWord 0xB#4 0 0)

/-- A table row's word placed where the next step fetches: a header on the wire, a command at the host. -/
def placeFetchWord (nbits w : Nat) (s : State) : State :=
  if nbits ≤ 16 then s.withHeaderOnWire (BitVec.ofNat 16 w) else s.withCommand (BitVec.ofNat 68 w)

end Sys2Proof.Machine
end

