-- ==== Sys2Proof/Machine/Step.lean ====
section
/-! DEFINITION. One step: the host's or the environment's next move, whole (R7, R79). -/

namespace Sys2Proof.Machine

/-- One step. With no move to make the block is idle and does nothing (R241). -/
def step (s : State) : Host.Outcome State Fault Refusal :=
  match s.host with
  | [] => .next s
  | m :: rest => performMove m (s.setHost rest)

/-- The instruction of a table row, placed where `step` takes its next instruction. -/
def State.withFetchWord (s : State) (nbits w : Nat) : State := placeFetchWord nbits w s

end Sys2Proof.Machine
end

