-- ==== Sys2Proof/Machine/Serial.lean ====
section
/-! DEFINITION. PARSE as byte-serial steps (R146 to R151) and the partial_read_detector (R155): the second reading
of PARSE, which R152 says agrees with the first. `exec` runs the first. -/

namespace Sys2Proof.Machine

/-- What the detector says of a step (R155). -/
inductive Detection where
  | complete | cleanEos | truncated | goOn
deriving DecidableEq, Repr

/-- The partial_read_detector (R155), a pure function of the phase, the two counters and the token. -/
def prd (ph : Phase) (got psz : Nat) (t : Token) : Detection :=
  match ph, t with
  | .body, .byte _ => if got = psz then .complete else .goOn
  | .body, .eos => if got = psz then .complete else if got < psz then .truncated else .goOn
  | .hdr0, .eos => .cleanEos
  | .hdr1, .eos => .cleanEos
  | .hdr0, .byte _ => .goOn
  | .hdr1, .byte _ => .goOn
  | .done, _ => .goOn
  | .error, _ => .goOn

/-- What one byte-serial step comes to: the PARSE goes on, it has ended, or it waits for ever. -/
inductive SerialStep where
  | more (s : State)
  | ended (s : State)
  | waits
deriving DecidableEq, Repr

/-- One step, determined by PH: R147 in HDR0, R148 in HDR1, R149 in BODY. There is none in DONE and ERROR, where the
PARSE has ended before it takes a step (R150). -/
def serialStep (s : State) : SerialStep :=
  match s.ph with
  | .hdr0 =>
    match inNext s with
    | none => .waits
    | some (.eos, s1) => .ended (s1.finish .eos)
    | some (.byte v, s1) => .more ((s1.takeByte0 v).setPhase .hdr1)
  | .hdr1 =>
    match inNext s with
    | none => .waits
    | some (.eos, s1) => .ended (s1.finish .eos)
    | some (.byte v, s1) => .more ((s1.takeByte1 v).setPhase .body)
  | .body =>
    if s.got = s.psz then .ended (s.deliver.finish .ok)
    else
      match inNext s with
      | none => .waits
      | some (.eos, s1) => .ended (s1.finish .eTruncated)
      | some (.byte v, s1) => .more (s1.storePacketByte v)
  | .done => .ended (s.finish .eos)
  | .error => .ended (s.finish .eTruncated)

/-- `repeat step(PH) until the operation has ended` (R146), for at most `fuel` steps. -/
def serialRun : Nat → State → Host.Outcome State Fault Refusal
  | 0, _ => .fault .inputStalled
  | fuel + 1, s =>
    match serialStep s with
    | .more s1 => serialRun fuel s1
    | .ended s1 => .next s1
    | .waits => .fault .inputStalled

/-- PARSE, byte-serial (R146): the phase checks, the start action, then the steps. A step that goes on consumes a
byte, so one step more than there are bytes is enough. -/
def serialParse (s : State) : Host.Outcome State Fault Refusal :=
  match s.ph with
  | .done => .next (s.finish .eos)
  | .error => .next (s.finish .eTruncated)
  | .hdr0 => serialRun (s.inp.bytes.length + 1) s.startParse
  | .hdr1 => serialRun (s.inp.bytes.length + 1) s.startParse
  | .body => serialRun (s.inp.bytes.length + 1) s.startParse

end Sys2Proof.Machine
end

