-- ==== Sys2Proof/Safety.lean ====
section
/-! DEFINITION. The terms claims use: the invariant of R45, the parts of the state a frame names, what a safe run is,
and the wire form of a record (R90). -/

namespace Sys2Proof.Machine

/-- A buffer is in canonical form and holds nothing at or above its capacity. -/
def bufferOk (cap : Nat) (m : Memory) : Prop := m.wf = true ∧ m.within cap = true

/-- The invariant between operations (R45), with the bounds of R22, R28 and R60 and what R34 and R35 say of STATUS
and FLAGS together. -/
structure Inv (s : State) : Prop where
  /-- R6. -/
  config : s.cfg.wf
  /-- R45.1. -/
  cursor : s.wcur ≤ s.cfg.obufCap
  /-- R28: WLEN was a cursor value or the length of a unit in OBUF. -/
  unitLength : s.wlen ≤ s.cfg.obufCap
  obuf : bufferOk s.cfg.obufCap s.obuf
  cfgbuf : bufferOk 63 s.cfgbuf
  paybuf : bufferOk 1023 s.paybuf
  rxbuf : bufferOk 1086 s.rxbuf
  /-- R45.2; the bounds on XSZ and FSZ are their widths. -/
  sizes : s.psz.toNat = s.xsz.toNat + s.fsz.toNat
  /-- R45.3, the part that holds always. -/
  counts : s.hgot.toNat ≤ 2 ∧ s.got.toNat ≤ 1086
  /-- R45.4. -/
  phase : s.ph = .hdr0 ∨ s.ph = .done ∨ s.ph = .error
  /-- R45.5. -/
  headerOfRecord : s.recv = true →
    s.hgot = 2#2 ∧ s.got = s.psz ∧ s.xsz.toNat = s.b0.toNat / 4 ∧
      s.fsz.toNat = s.b0.toNat % 4 * 256 + s.b1.toNat
  /-- R36: the bytes of the record were all written. -/
  bytesOfRecord : s.recv = true → ∀ a, a < s.psz.toNat → (s.rxbuf.read? a).isSome = true
  /-- R45.6. -/
  doneFlag : s.ph = .done → s.flags.getLsbD 0 = true
  /-- R45.6. -/
  errorFlag : s.ph = .error → s.flags.getLsbD 1 = true
  /-- R35: the flag of the last result is set. -/
  resultFlag : s.flags ||| s.status.flagMask = s.flags
  /-- R70: appending nothing is no append. -/
  noEmptyUnit : [] ∉ s.out.units

/-! ### The parts of the state that frames name -/

/-- The parser's registers and RXBUF are as before. -/
def ParserKept (s t : State) : Prop :=
  t.ph = s.ph ∧ t.b0 = s.b0 ∧ t.b1 = s.b1 ∧ t.hgot = s.hgot ∧ t.xsz = s.xsz ∧ t.fsz = s.fsz ∧ t.psz = s.psz ∧
    t.got = s.got ∧ t.recv = s.recv ∧ t.rxbuf = s.rxbuf

/-- The writer's registers and OBUF are as before. -/
def WriterKept (s t : State) : Prop := t.wcur = s.wcur ∧ t.obuf = s.obuf ∧ t.hdr = s.hdr ∧ t.wlen = s.wlen

/-- The source buffers are as before. -/
def SourcesKept (s t : State) : Prop := t.cfgbuf = s.cfgbuf ∧ t.paybuf = s.paybuf

/-- The parameter and the model's own fields are as before. -/
def ModelKept (s t : State) : Prop := t.cfg = s.cfg ∧ t.draw = s.draw ∧ t.host = s.host

/-- Every byte of a buffer outside `lo .. hi-1` reads as before, and so stays unwritten if it was. -/
def KeptOutside (lo hi : Nat) (m m' : Memory) : Prop := ∀ x, x < lo ∨ hi ≤ x → m'.read? x = m.read? x

/-! ### Safe runs -/

/-- The sticky flags of the results that are errors: all but F_EOS, which is not (R34, R35, R201). -/
def errorFlags : BitVec 6 := 0b111110#6

/-- No operation has ended with an error since the last reset (R35). -/
def neverRefused (s : State) : Bool := s.flags &&& errorFlags == 0#6

/-- The host's duty before a copy of the first `n` bytes of a source: it has written them (R249). -/
def loaded (src : Source) (n : Nat) (s : State) : Bool :=
  (List.range n).all fun a => ((s.mem src.buf).read? a).isSome

/-- The sink takes `n` more bytes (R70, R255). -/
def sinkTakes (n : Nat) (s : State) : Prop := ∀ k, s.out.accepts = some k → n ≤ k

/-- An answer to go on with: the step is neither stuck nor without a meaning. -/
def goesOn (o : Host.Outcome State Fault Refusal) : Bool :=
  match o with
  | .next _ => true
  | .fault _ => false
  | .refused _ => false

/-- The next move is a reset: the RESET command, or hardware reset (R242). -/
def resetIsNext (s : State) : Prop :=
  s.host.head? = some .hardReset ∨ ∃ w : CommandWord, s.host.head? = some (.command w) ∧ opField w = 0xF#4

/-! ### Sequences of operations, and records -/

/-- Operations one after another, each from the state the last one left. -/
def execAll : List Instr → State → Host.Outcome State Fault Refusal
  | [], s => .next s
  | i :: rest, s =>
    match exec i s with
    | .next t => execAll rest t
    | .fault r => .fault r
    | .refused r => .refused r

/-- A record: its configuration blob and its payload. -/
abbrev Record := List Byte × List Byte

/-- Both sizes of a record fit the header (R90). -/
def Record.fits (r : Record) : Prop := r.1.length ≤ 63 ∧ r.2.length ≤ 1023

/-- A record on the wire: the two header bytes, b0 with the configuration size and the top of the payload size, then
the two blobs (R90, R93). -/
def Record.wire (r : Record) : List Byte :=
  BitVec.ofNat 8 (r.1.length * 4 + r.2.length / 256) :: BitVec.ofNat 8 (r.2.length % 256) :: (r.1 ++ r.2)

/-- The records that `n` PARSEs deliver, all ending OK, and the state they leave. -/
def parseRecords : Nat → State → Option (List Record × State)
  | 0, s => some ([], s)
  | n + 1, s =>
    match exec .parse s with
    | .next t =>
      if t.status = .ok then
        match t.record?, parseRecords n t with
        | some r, some (rs, u) => some (r :: rs, u)
        | _, _ => none
      else none
    | .fault _ => none
    | .refused _ => none

/-- The bytes a write operation writes, `none` for any other operation (R120). -/
def bytesWritten (s : State) : Instr → Option (List Byte)
  | .wr8 a => some (bytesBE 1 a)
  | .wr16 a => some (bytesBE 2 a)
  | .wr24 a => some (bytesBE 3 a)
  | .wr32 a => some (bytesBE 4 a)
  | .wrn sel n => (sourceOf sel).map fun src => s.readBytes src.buf 0 n
  | .setcur _ => none
  | .flush => none
  | .pack _ _ => none
  | .ser _ _ => none
  | .unpack _ _ => none
  | .parse => none
  | .reset => none
  | .illegal0 => none
  | .illegalC => none
  | .illegalD => none
  | .illegalE => none
  | .recordHeader _ _ => none

/-- A sequence of write operations that all end OK: what they wrote, in order, and the state they leave (R128). -/
def runWrites : List Instr → State → Option (List Byte × State)
  | [], s => some ([], s)
  | i :: rest, s =>
    match bytesWritten s i, exec i s with
    | some bs, .next t =>
      if t.status = .ok then (runWrites rest t).map fun r => (bs ++ r.1, r.2) else none
    | _, _ => none

/-! ### What each operation may end in -/

/-- The results an operation can end with (R207). -/
def possibleResults : Instr → List Status
  | .wr8 _ => [.ok, .eOverflow, .eValueRange]
  | .wr16 _ => [.ok, .eOverflow, .eValueRange]
  | .wr24 _ => [.ok, .eOverflow, .eValueRange]
  | .wr32 _ => [.ok, .eOverflow]
  | .wrn _ _ => [.ok, .eOverflow, .eValueRange]
  | .setcur _ => [.ok, .eOverflow]
  | .flush => [.ok]
  | .pack _ _ => [.ok, .eFieldTooLarge]
  | .ser _ _ => [.ok, .eFieldTooLarge, .eOverflow]
  | .unpack _ _ => [.ok, .eValueRange]
  | .parse => [.ok, .eos, .eTruncated]
  | .reset => [.ok]
  | .illegal0 => [.eIllegal]
  | .illegalC => [.eIllegal]
  | .illegalD => [.eIllegal]
  | .illegalE => [.eIllegal]
  | .recordHeader _ _ => [.ok, .eos, .eTruncated]

/-- What the code or an operand alone makes an operation end in, whatever the state (R203, R205, R206): E_ILLEGAL for
a code that names nothing, E_VALUE_RANGE or E_FIELD_TOO_LARGE for an operand out of range. -/
def operandResult : Instr → Option Status
  | .wr8 a => if 0xFF < a then some .eValueRange else none
  | .wr16 a => if 0xFFFF < a then some .eValueRange else none
  | .wr24 a => if 0xFFFFFF < a then some .eValueRange else none
  | .wr32 _ => none
  | .wrn sel n =>
    if 1 < sel ∨ (sel = 0 ∧ 63 < n) ∨ (sel = 1 ∧ 1023 < n) then some .eValueRange else none
  | .setcur _ => none
  | .flush => none
  | .pack c p => if 63 < c ∨ 1023 < p then some .eFieldTooLarge else none
  | .ser c p => if 63 < c ∨ 1023 < p then some .eFieldTooLarge else none
  | .unpack b0 b1 => if 0xFF < b0 ∨ 0xFF < b1 then some .eValueRange else none
  | .parse => none
  | .reset => none
  | .illegal0 => some .eIllegal
  | .illegalC => some .eIllegal
  | .illegalD => some .eIllegal
  | .illegalE => some .eIllegal
  | .recordHeader _ _ => none

/-- The operations of the writer's side: the byte_writer and the frame_header_packer (R1, R211). -/
def writerSide : Instr → Bool
  | .wr8 _ => true
  | .wr16 _ => true
  | .wr24 _ => true
  | .wr32 _ => true
  | .wrn _ _ => true
  | .setcur _ => true
  | .flush => true
  | .pack _ _ => true
  | .ser _ _ => true
  | .unpack _ _ => false
  | .parse => false
  | .reset => false
  | .illegal0 => false
  | .illegalC => false
  | .illegalD => false
  | .illegalE => false
  | .recordHeader _ _ => false

/-- The operations of the parser's side: the length codec and the detector, and the header they take from the wire
(R1, R211). -/
def parserSide : Instr → Bool
  | .unpack _ _ => true
  | .parse => true
  | .recordHeader _ _ => true
  | .wr8 _ => false
  | .wr16 _ => false
  | .wr24 _ => false
  | .wr32 _ => false
  | .wrn _ _ => false
  | .setcur _ => false
  | .flush => false
  | .pack _ _ => false
  | .ser _ _ => false
  | .reset => false
  | .illegal0 => false
  | .illegalC => false
  | .illegalD => false
  | .illegalE => false

/-- Two states with the same writer's side: the writer, the source buffers, OUT, the parameter and the draw. -/
def SameWriterSide (s t : State) : Prop :=
  WriterKept s t ∧ SourcesKept s t ∧ t.out = s.out ∧ t.cfg = s.cfg ∧ t.draw = s.draw

/-- Two states with the same parser's side: the parser and IN. -/
def SameParserSide (s t : State) : Prop := ParserKept s t ∧ t.inp = s.inp

/-- Two states that differ at most in what the four buffers hold, in the draw, and in the contents of the units on
OUT, not in how many units there are or how long each is. -/
def SameButBufferContents (s t : State) : Prop :=
  t.cfg = s.cfg ∧ t.wcur = s.wcur ∧ t.hdr = s.hdr ∧ t.wlen = s.wlen ∧ t.ph = s.ph ∧ t.b0 = s.b0 ∧ t.b1 = s.b1 ∧
    t.hgot = s.hgot ∧ t.xsz = s.xsz ∧ t.fsz = s.fsz ∧ t.psz = s.psz ∧ t.got = s.got ∧ t.recv = s.recv ∧
    t.status = s.status ∧ t.flags = s.flags ∧ t.inp = s.inp ∧ t.host = s.host ∧
    t.out.accepts = s.out.accepts ∧ t.out.units.map List.length = s.out.units.map List.length

end Sys2Proof.Machine
end

