-- ==== Sys2Proof/Certificates/Slice0/Obligations.lean ====
section
/-! DEFINITION. The statements for the provers. Each docstring says which rule of spec/ the statement formalises. -/

open Sys2Proof Sys2Proof.Machine

/-! ### Encodings and the step -/

/-- R91, R99, R100: decoding the encoding of a well-formed instruction, command or header, gives it back, whatever its
operands. -/
def Obligations.DecodeEncodeRoundTrip : Prop :=
  ∀ i : Instr, WellFormed i = true → decode (encode i) = i

/-- R99, R100, R102: encoding what a command word decodes to gives its canonical word, the same code and the same
operands where R100 reads them, 0 where it ignores them; and every header word is its own canonical word. -/
def Obligations.EncodeDecodeGivesTheCanonicalWord : Prop :=
  (∀ w : CommandWord,
    encode (decodeCommand w) = .cmd68 (commandWord (opField w)
      (if opField w ∈ [0x1#4, 0x2#4, 0x3#4, 0x4#4, 0x5#4, 0x6#4, 0x8#4, 0x9#4, 0xA#4] then aField w else 0)
      (if opField w ∈ [0x5#4, 0x8#4, 0x9#4, 0xA#4] then bField w else 0))) ∧
  ∀ h : HeaderWord, encode (decodeHeader h) = .hdr16 h

/-- R102: the operation does not read an ignored field, and its value has no effect on any state; the canonical
encoding has 0 there. -/
def Obligations.IgnoredFieldsHaveNoEffect : Prop :=
  (∀ (s : State) (rest : List HostMove) (op : BitVec 4) (a b b' : Nat),
    op ∈ [0x1#4, 0x2#4, 0x3#4, 0x4#4, 0x6#4] →
    step { s with host := .command (commandWord op a b) :: rest } =
      step { s with host := .command (commandWord op a b') :: rest }) ∧
  (∀ (s : State) (rest : List HostMove) (op : BitVec 4) (a b a' b' : Nat),
    op ∈ [0x0#4, 0x7#4, 0xB#4, 0xC#4, 0xD#4, 0xE#4, 0xF#4] →
    step { s with host := .command (commandWord op a b) :: rest } =
      step { s with host := .command (commandWord op a' b') :: rest }) ∧
  ∀ w w' : CommandWord, encode (decodeCommand w) = .cmd68 w' →
    (opField w ∈ [0x1#4, 0x2#4, 0x3#4, 0x4#4, 0x6#4] → bField w' = 0) ∧
    (opField w ∈ [0x0#4, 0x7#4, 0xB#4, 0xC#4, 0xD#4, 0xE#4, 0xF#4] → aField w' = 0 ∧ bField w' = 0)

/-- R98: every header value means exactly one pair of sizes, and the decoder and the encoder know it as that pair. -/
def Obligations.EveryHeaderMeansOnePair : Prop :=
  ∀ h : HeaderWord, ∃ c p, c ≤ 63 ∧ p ≤ 1023 ∧ h.toNat = c * 1024 + p ∧
    decodeHeader h = .recordHeader c p ∧ encode (.recordHeader c p) = .hdr16 h ∧
    ∀ c' p', c' ≤ 63 → p' ≤ 1023 → c' * 1024 + p' = h.toNat → c' = c ∧ p' = p

/-- R92, R93, R94: the field formulas of both directions as arithmetic, the packet size, and that each direction
undoes the other. -/
def Obligations.HeaderFormulasBothWays : Prop :=
  (∀ b0 b1 : Byte,
    (extradataSize b0).toNat = b0.toNat / 4 ∧
    (framedataSize b0 b1).toNat = b0.toNat % 4 * 256 + b1.toNat ∧
    (packetSize (extradataSize b0) (framedataSize b0 b1)).toNat =
      (extradataSize b0).toNat + (framedataSize b0 b1).toNat ∧
    packHeader (extradataSize b0).toNat (framedataSize b0 b1).toNat = b0 ++ b1) ∧
  ∀ c p : Nat, c ≤ 63 → p ≤ 1023 →
    (packHeader c p).toNat = c * 1024 + p ∧
    (headerByte0 (packHeader c p)).toNat = c * 4 + p / 256 ∧
    (headerByte1 (packHeader c p)).toNat = p % 256 ∧
    (extradataSize (headerByte0 (packHeader c p))).toNat = c ∧
    (framedataSize (headerByte0 (packHeader c p)) (headerByte1 (packHeader c p))).toNat = p

/-- R98, R101: every command word and every header word is an instruction, and a well-formed one. -/
def Obligations.EveryCodeWordDecodesWellFormed : Prop :=
  ∀ x : CodeWord, WellFormed (decode x) = true

/-- R7, R99: when the host's next move is a command word, the step is `exec` of the instruction it decodes to, at the
state without that move; with no move the block does nothing. That the moves stand in the state is the model's choice
(entry 5). -/
def Obligations.StepRunsTheCommand : Prop :=
  (∀ (s : State) (w : CommandWord) (rest : List HostMove), s.host = .command w :: rest →
    step s = exec (decodeCommand w) { s with host := rest }) ∧
  (∀ (s : State) (i : Instr) (w : CommandWord) (rest : List HostMove), WellFormed i = true →
    encode i = .cmd68 w → s.host = .command w :: rest → step s = exec i { s with host := rest }) ∧
  ∀ s : State, s.host = [] → step s = .next s

/-- R91, R96, R141: a PARSE in HDR0 with two bytes on the wire runs the header they are, at the state whose IN is what
follows them. That the header has a meaning of its own is the model's choice (entry 8). -/
def Obligations.ParseRunsTheHeaderOnTheWire : Prop :=
  ∀ (s : State) (w : CommandWord) (rest : List HostMove) (b0 b1 : Byte) (bytes : List Byte),
    s.host = .command w :: rest → opField w = 0xB#4 → s.ph = .hdr0 → s.inp.bytes = b0 :: b1 :: bytes →
    ∃ c p, decodeWire s.inp.bytes = .ok (.recordHeader c p, bytes) ∧ c * 1024 + p = b0.toNat * 256 + b1.toNat ∧
      step s = exec (.recordHeader c p) { s with host := rest, inp := ⟨bytes, s.inp.ending⟩ }

/-- A word of the opcode table that is placed as the next to run is run by the next step: a command at the host, a
header on the wire with a PARSE to take it. Where a word is placed is the model's choice (entries 6 and 7). -/
def Obligations.PlacedWordRunsNext : Prop :=
  (∀ (s : State) (nbits w : Nat), 16 < nbits → w < 2 ^ 68 →
    ∃ i, decodeTableWord nbits w = some i ∧ step (s.withFetchWord nbits w) = exec i s) ∧
  ∀ (s : State) (nbits w : Nat), nbits ≤ 16 → w < 2 ^ 16 →
    ∃ i, decodeTableWord nbits w = some i ∧ step (s.withFetchWord nbits w) = exec i { s with ph := .hdr0 }

/-- Words written out from R99, R100 and R91, and what they are: `WR8 0xAB`, `WRN PAY, 5`, `SETCUR 1088`, `FLUSH`,
`SER 3, 517`, `UNPACK 0x0E, 0x05`, `PARSE`, `RESET`, code 0xC, and the header `0E 05`. -/
def Obligations.WordsOfTheSpecDecode : Prop :=
  decode (.cmd68 0x1000000AB00000000#68) = .wr8 0xAB ∧
  decode (.cmd68 0x50000000100000005#68) = .wrn 1 5 ∧
  decode (.cmd68 0x60000044000000000#68) = .setcur 1088 ∧
  decode (.cmd68 0x70000000000000000#68) = .flush ∧
  decode (.cmd68 0x90000000300000205#68) = .ser 3 517 ∧
  decode (.cmd68 0xA0000000E00000005#68) = .unpack 0x0E 0x05 ∧
  decode (.cmd68 0xB0000000000000000#68) = .parse ∧
  decode (.cmd68 0xF0000000000000000#68) = .reset ∧
  decode (.cmd68 0xC0000000500000005#68) = .illegalC ∧
  decodeWire [0x0E#8, 0x05#8] = .ok (.recordHeader 3 517, [])

/-! ### The byte_writer -/

/-- R121, R122, R123, R124: what WR8, WR16, WR24 and WR32 do, in each of their cases, and what they leave alone. -/
def Obligations.FixedWidthWritesStoreBigEndian : Prop :=
  ∀ (i : Instr) (k a : Nat) (s : State),
    (i = .wr8 a ∧ k = 1 ∨ i = .wr16 a ∧ k = 2 ∨ i = .wr24 a ∧ k = 3 ∨ i = .wr32 a ∧ k = 4) →
    WellFormed i = true →
    (2 ^ (8 * k) ≤ a →
      exec i s = .next { s with status := .eValueRange, flags := s.flags ||| 0b010000#6 }) ∧
    (a < 2 ^ (8 * k) → s.cfg.obufCap < s.wcur + k →
      exec i s = .next { s with status := .eOverflow, flags := s.flags ||| 0b001000#6 }) ∧
    (a < 2 ^ (8 * k) → s.wcur + k ≤ s.cfg.obufCap → ∃ t, exec i s = .next t ∧
      t.status = .ok ∧ t.flags = s.flags ∧ t.wcur = s.wcur + k ∧
      (∀ j, j < k → t.obuf.read? (s.wcur + j) = some (BitVec.ofNat 8 (a / 2 ^ (8 * (k - 1 - j))))) ∧
      KeptOutside s.wcur (s.wcur + k) s.obuf t.obuf ∧
      t.hdr = s.hdr ∧ t.wlen = s.wlen ∧ ParserKept s t ∧ SourcesKept s t ∧ t.inp = s.inp ∧ t.out = s.out ∧
      ModelKept s t)

/-- R125: what WRN does in each of its cases. R125 speaks of source bytes that have been written; that one which has
not (R44, R249) is copied as the free byte it reads as is the model's choice (entry 3). -/
def Obligations.RawCopyCopiesTheSource : Prop :=
  ∀ (sel n : Nat) (s : State),
    (1 < sel ∨ (sel = 0 ∧ 63 < n) ∨ (sel = 1 ∧ 1023 < n) →
      exec (.wrn sel n) s = .next { s with status := .eValueRange, flags := s.flags ||| 0b010000#6 }) ∧
    ∀ src : Buf, (sel = 0 ∧ n ≤ 63 ∧ src = .cfgbuf ∨ sel = 1 ∧ n ≤ 1023 ∧ src = .paybuf) →
      (s.cfg.obufCap < s.wcur + n →
        exec (.wrn sel n) s = .next { s with status := .eOverflow, flags := s.flags ||| 0b001000#6 }) ∧
      (s.wcur + n ≤ s.cfg.obufCap → ∃ t, exec (.wrn sel n) s = .next t ∧
        t.status = .ok ∧ t.flags = s.flags ∧ t.wcur = s.wcur + n ∧
        (∀ j, j < n → t.obuf.read? (s.wcur + j) = some (s.byteAt src j)) ∧
        KeptOutside s.wcur (s.wcur + n) s.obuf t.obuf ∧
        t.hdr = s.hdr ∧ t.wlen = s.wlen ∧ ParserKept s t ∧ SourcesKept s t ∧ t.inp = s.inp ∧ t.out = s.out ∧
        ModelKept s t)

/-- R126: SETCUR sets the cursor, up to and including `OBUF_CAP`, and writes no byte. -/
def Obligations.SetcurSetsTheCursor : Prop :=
  ∀ (p : Nat) (s : State),
    (s.cfg.obufCap < p →
      exec (.setcur p) s = .next { s with status := .eOverflow, flags := s.flags ||| 0b001000#6 }) ∧
    (p ≤ s.cfg.obufCap → exec (.setcur p) s = .next { s with wcur := p, status := .ok })

/-- R127, R70: FLUSH appends the bytes below the cursor as one unit, for a sink that takes them. The number of bytes a
sink still takes is the model's form of the sink (entry 9), and that an unwritten byte among them is the free byte it
reads as is the model's choice (entry 3). -/
def Obligations.FlushAppendsTheWrittenBytes : Prop :=
  ∀ s : State, sinkTakes s.wcur s → ∃ t u, exec .flush s = .next t ∧
    u.length = s.wcur ∧ (∀ j, j < s.wcur → u[j]? = some (s.byteAt .obuf j)) ∧
    t.out.bytes = s.out.bytes ++ u ∧
    t.out.units = (if s.wcur = 0 then s.out.units else s.out.units ++ [u]) ∧
    t.out.accepts = s.out.accepts.map (fun k => k - s.wcur) ∧
    t.wlen = s.wcur ∧ t.wcur = 0 ∧ t.status = .ok ∧ t.flags = s.flags ∧
    t.obuf = s.obuf ∧ t.hdr = s.hdr ∧ ParserKept s t ∧ SourcesKept s t ∧ t.inp = s.inp ∧ ModelKept s t

/-- R128: a sequence of write operations that all end OK leaves the concatenation of what they wrote at the cursor,
the cursor after it, and every other byte of OBUF as it was. -/
def Obligations.WriteSequencesConcatenate : Prop :=
  ∀ (is : List Instr) (s t : State) (bs : List Byte), runWrites is s = some (bs, t) →
    t.wcur = s.wcur + bs.length ∧
    (∀ j, j < bs.length → t.obuf.read? (s.wcur + j) = bs[j]?) ∧
    KeptOutside s.wcur (s.wcur + bs.length) s.obuf t.obuf ∧
    (s.wcur = 0 → bs.length = s.cfg.obufCap → t.wcur = t.cfg.obufCap)

/-! ### The frame_header_packer -/

/-- R170: PACK checks both sizes and packs them, or changes nothing but the result. -/
def Obligations.PackChecksAndPacks : Prop :=
  ∀ (c p : Nat) (s : State),
    (63 < c ∨ 1023 < p →
      exec (.pack c p) s = .next { s with status := .eFieldTooLarge, flags := s.flags ||| 0b000100#6 }) ∧
    (c ≤ 63 → p ≤ 1023 →
      exec (.pack c p) s = .next { s with hdr := BitVec.ofNat 16 (c * 1024 + p), status := .ok })

/-- R171, R70: what SER does in each of its cases, for a sink that takes the unit: the record of the first `c` bytes
of CFGBUF and the first `p` of PAYBUF is built from OBUF address 0 and appended whole. The number of bytes a sink
still takes is the model's form of the sink (entry 9), and that an unwritten source byte (R44, R249) is the free byte
it reads as is the model's choice (entry 3). -/
def Obligations.SerAppendsOneRecord : Prop :=
  ∀ (c p : Nat) (s : State),
    (63 < c ∨ 1023 < p →
      exec (.ser c p) s = .next { s with status := .eFieldTooLarge, flags := s.flags ||| 0b000100#6 }) ∧
    (c ≤ 63 → p ≤ 1023 → s.cfg.obufCap < 2 + c + p →
      exec (.ser c p) s = .next { s with status := .eOverflow, flags := s.flags ||| 0b001000#6 }) ∧
    (c ≤ 63 → p ≤ 1023 → 2 + c + p ≤ s.cfg.obufCap → sinkTakes (2 + c + p) s →
      ∃ t u, exec (.ser c p) s = .next t ∧
        u = Record.wire ((List.range c).map (s.byteAt .cfgbuf), (List.range p).map (s.byteAt .paybuf)) ∧
        t.out.units = s.out.units ++ [u] ∧ t.out.bytes = s.out.bytes ++ u ∧
        t.out.accepts = s.out.accepts.map (fun k => k - (2 + c + p)) ∧
        t.hdr = BitVec.ofNat 16 (c * 1024 + p) ∧ t.wlen = 2 + c + p ∧ t.wcur = 0 ∧
        (∀ j, j < 2 + c + p → t.obuf.read? j = u[j]?) ∧ KeptOutside 0 (2 + c + p) s.obuf t.obuf ∧
        t.status = .ok ∧ t.flags = s.flags ∧ ParserKept s t ∧ SourcesKept s t ∧ t.inp = s.inp ∧ ModelKept s t)

/-- R172: when its checks pass, SER leaves exactly what PACK, SETCUR 0, WR16, WRN CFG, WRN PAY and FLUSH leave one
after another, stall included. The form of a stall is the model's choice (entry 9). -/
def Obligations.SerIsItsSequence : Prop :=
  ∀ (c p : Nat) (s : State), c ≤ 63 → p ≤ 1023 → 2 + c + p ≤ s.cfg.obufCap →
    exec (.ser c p) s =
      execAll [.pack c p, .setcur 0, .wr16 (c * 1024 + p), .wrn 0 c, .wrn 1 p, .flush] s

/-- R174: the unit a SER appends, presented as the input stream and followed by anything, parses back to the two
blobs, and exactly its bytes are consumed. That an unwritten source byte comes back as the free byte it was copied as
is the model's choice (entry 3). -/
def Obligations.SerThenParseRoundTrip : Prop :=
  ∀ (c p : Nat) (s t : State), c ≤ 63 → p ≤ 1023 → exec (.ser c p) s = .next t → t.status = .ok →
    ∃ u, t.out.bytes = s.out.bytes ++ u ∧ u.length = 2 + c + p ∧
      ∀ (s' : State) (rest : List Byte), s'.ph = .hdr0 → s'.inp.bytes = u ++ rest →
        ∃ t', exec .parse s' = .next t' ∧ t'.status = .ok ∧
          t'.xsz.toNat = c ∧ t'.fsz.toNat = p ∧ t'.psz.toNat = c + p ∧
          t'.record? = some ((List.range c).map (s.byteAt .cfgbuf), (List.range p).map (s.byteAt .paybuf)) ∧
          t'.inp.bytes = rest

/-- R175: PACK then UNPACK of the two bytes of HDR gives the sizes back, and UNPACK then PACK of the two sizes gives
the bytes back and is never refused. -/
def Obligations.PackAndUnpackAreInverse : Prop :=
  (∀ (c p : Nat) (s : State), c ≤ 63 → p ≤ 1023 → ∃ t u, exec (.pack c p) s = .next t ∧
    exec (.unpack (t.hdr.toNat / 256) (t.hdr.toNat % 256)) t = .next u ∧
    u.status = .ok ∧ u.xsz.toNat = c ∧ u.fsz.toNat = p ∧ u.psz.toNat = c + p) ∧
  ∀ (b0 b1 : Nat) (s : State), b0 ≤ 0xFF → b1 ≤ 0xFF → ∃ t u, exec (.unpack b0 b1) s = .next t ∧
    exec (.pack t.xsz.toNat t.fsz.toNat) t = .next u ∧ u.status = .ok ∧ u.hdr.toNat = b0 * 256 + b1

/-- R251: what SER appends and leaves in its registers does not depend on what OBUF held or where the cursor was. -/
def Obligations.SerIgnoresUnflushedWrites : Prop :=
  ∀ (c p n : Nat) (m : Memory) (s t : State), exec (.ser c p) s = .next t → t.status = .ok →
    ∃ t', exec (.ser c p) { s with obuf := m, wcur := n } = .next t' ∧
      t'.out = t.out ∧ t'.hdr = t.hdr ∧ t'.wlen = t.wlen ∧ t'.wcur = t.wcur ∧ t'.status = t.status ∧
      t'.flags = t.flags ∧ ∀ j, j < t.wlen → t'.obuf.read? j = t.obuf.read? j

/-! ### The payload_length_codec and the partial_read_detector -/

/-- R140: UNPACK decodes two header bytes, or changes nothing but the result. -/
def Obligations.UnpackDecodesTheHeader : Prop :=
  ∀ (b0 b1 : Nat) (s : State),
    (0xFF < b0 ∨ 0xFF < b1 →
      exec (.unpack b0 b1) s = .next { s with status := .eValueRange, flags := s.flags ||| 0b010000#6 }) ∧
    (b0 ≤ 0xFF → b1 ≤ 0xFF →
      exec (.unpack b0 b1) s = .next { s with
        b0 := BitVec.ofNat 8 b0
        b1 := BitVec.ofNat 8 b1
        xsz := BitVec.ofNat 6 (b0 / 4)
        fsz := BitVec.ofNat 10 (b0 % 4 * 256 + b1)
        psz := BitVec.ofNat 11 (b0 / 4 + (b0 % 4 * 256 + b1))
        recv := false
        status := .ok })

/-- R142: a PARSE in HDR0 with a whole record on the wire delivers it: the two blobs, RECV set, exactly the record's
bytes consumed. -/
def Obligations.ParseDeliversTheRecord : Prop :=
  ∀ (s : State) (r : Record) (rest : List Byte), s.ph = .hdr0 → r.fits → s.inp.bytes = r.wire ++ rest →
    ∃ t, exec .parse s = .next t ∧ t.status = .ok ∧ t.flags = s.flags ∧ t.ph = .hdr0 ∧ t.recv = true ∧
      t.record? = some r ∧ t.hgot = 2#2 ∧ r.wire[0]? = some t.b0 ∧ r.wire[1]? = some t.b1 ∧
      t.xsz.toNat = r.1.length ∧ t.fsz.toNat = r.2.length ∧ t.psz.toNat = r.1.length + r.2.length ∧
      t.got = t.psz ∧ (∀ j, j < t.psz.toNat → t.rxbuf.read? j = (r.1 ++ r.2)[j]?) ∧
      KeptOutside 0 t.psz.toNat s.rxbuf t.rxbuf ∧ t.inp = ⟨rest, s.inp.ending⟩ ∧
      WriterKept s t ∧ SourcesKept s t ∧ t.out = s.out ∧ ModelKept s t

/-- R143: a PARSE in HDR0 with fewer than two bytes left in an ended stream is a clean end; a stray byte is consumed
and kept in B0. -/
def Obligations.ParseFindsTheCleanEnd : Prop :=
  ∀ s : State, s.ph = .hdr0 → s.inp.ending = .eos → s.inp.bytes.length < 2 →
    exec .parse s = .next { s with
      status := .eos
      flags := s.flags ||| 0b000001#6
      ph := .done
      recv := false
      hgot := BitVec.ofNat 2 s.inp.bytes.length
      b0 := s.inp.bytes.headD 0#8
      b1 := 0#8
      xsz := 0#6
      fsz := 0#10
      psz := 0#11
      got := 0#11
      inp := ⟨[], .eos⟩ }

/-- R144: a PARSE in HDR0 whose stream ends inside the packet reports the truncation, delivers no record, keeps what
arrived for diagnosis, and stops. -/
def Obligations.ParseReportsTheTruncation : Prop :=
  ∀ (s : State) (b0 b1 : Byte) (part : List Byte), s.ph = .hdr0 → s.inp.ending = .eos →
    s.inp.bytes = b0 :: b1 :: part → part.length < b0.toNat / 4 + (b0.toNat % 4 * 256 + b1.toNat) →
    ∃ t, exec .parse s = .next t ∧ t.status = .eTruncated ∧ t.flags = s.flags ||| 0b000010#6 ∧
      t.ph = .error ∧ t.recv = false ∧ t.record? = none ∧ t.hgot = 2#2 ∧ t.b0 = b0 ∧ t.b1 = b1 ∧
      t.xsz.toNat = b0.toNat / 4 ∧ t.fsz.toNat = b0.toNat % 4 * 256 + b1.toNat ∧
      t.psz.toNat = t.xsz.toNat + t.fsz.toNat ∧ t.got.toNat = part.length ∧
      (∀ j, j < part.length → t.rxbuf.read? j = part[j]?) ∧ KeptOutside 0 part.length s.rxbuf t.rxbuf ∧
      t.inp = ⟨[], .eos⟩ ∧ WriterKept s t ∧ SourcesKept s t ∧ t.out = s.out ∧ ModelKept s t

/-- R145: a PARSE in DONE or ERROR reads nothing and repeats its result, and nothing but a reset leaves these two
phases. -/
def Obligations.ParseAfterTheStopReadsNothing : Prop :=
  (∀ s : State, s.ph = .done →
    exec .parse s = .next { s with status := .eos, flags := s.flags ||| 0b000001#6 }) ∧
  (∀ s : State, s.ph = .error →
    exec .parse s = .next { s with status := .eTruncated, flags := s.flags ||| 0b000010#6 }) ∧
  (∀ (i : Instr) (s t : State), s.ph = .done ∨ s.ph = .error → exec i s = .next t → i ≠ .reset → t.ph = s.ph) ∧
  ∀ s t : State, s.ph = .done ∨ s.ph = .error → step s = .next t → t.ph = s.ph ∨ resetIsNext s

/-- R91, R141, R142, R144: the header that a PARSE has taken from the wire, in HDR0: the packet it declares is stored
and the record delivered, or the stream ends inside it, what arrived is kept and the truncation is reported. That the
header has a meaning of its own is the model's choice (entry 8). -/
def Obligations.HeaderOnTheWireReceivesItsPacket : Prop :=
  ∀ (c p : Nat) (s : State), c ≤ 63 → p ≤ 1023 → s.ph = .hdr0 →
    (∀ (blob payload rest : List Byte), blob.length = c → payload.length = p →
      s.inp.bytes = blob ++ payload ++ rest →
      ∃ t, exec (.recordHeader c p) s = .next t ∧ t.status = .ok ∧ t.flags = s.flags ∧ t.ph = .hdr0 ∧
        t.record? = some (blob, payload) ∧ t.hgot = 2#2 ∧ t.b0.toNat = c * 4 + p / 256 ∧ t.b1.toNat = p % 256 ∧
        t.xsz.toNat = c ∧ t.fsz.toNat = p ∧ t.psz.toNat = c + p ∧ t.got = t.psz ∧
        KeptOutside 0 (c + p) s.rxbuf t.rxbuf ∧ t.inp = ⟨rest, s.inp.ending⟩ ∧
        WriterKept s t ∧ SourcesKept s t ∧ t.out = s.out ∧ ModelKept s t) ∧
    (s.inp.bytes.length < c + p → s.inp.ending = .eos →
      ∃ t, exec (.recordHeader c p) s = .next t ∧ t.status = .eTruncated ∧ t.flags = s.flags ||| 0b000010#6 ∧
        t.ph = .error ∧ t.recv = false ∧ t.record? = none ∧ t.hgot = 2#2 ∧ t.b0.toNat = c * 4 + p / 256 ∧
        t.b1.toNat = p % 256 ∧ t.xsz.toNat = c ∧ t.fsz.toNat = p ∧ t.psz.toNat = c + p ∧
        t.got.toNat = s.inp.bytes.length ∧
        (∀ j, j < s.inp.bytes.length → t.rxbuf.read? j = s.inp.bytes[j]?) ∧
        KeptOutside 0 s.inp.bytes.length s.rxbuf t.rxbuf ∧ t.inp = ⟨[], .eos⟩ ∧
        WriterKept s t ∧ SourcesKept s t ∧ t.out = s.out ∧ ModelKept s t)

/-- R150, R151, R221: a PARSE never ends exactly when its phase lets it read and the stream, without ending, gives
fewer bytes than the header, or than the packet the header declares, needs. The form of a stall is the model's choice
(entry 9), and so is what PARSE does in HDR1 and BODY, which no run reaches (entry 12). -/
def Obligations.ParseWaitsExactlyWhenInputStalls : Prop :=
  ∀ s : State, exec .parse s = .fault .inputStalled ↔
    s.ph ≠ .done ∧ s.ph ≠ .error ∧ s.inp.ending = .never ∧
      (s.inp.bytes.length < 2 ∨ ∃ (b0 b1 : Byte) (part : List Byte), s.inp.bytes = b0 :: b1 :: part ∧
        part.length < b0.toNat / 4 + (b0.toNat % 4 * 256 + b1.toNat))

/-- R156: the bytes one PARSE consumes, by its result and the phase it started in. -/
def Obligations.BytesConsumedByParse : Prop :=
  ∀ s t : State, exec .parse s = .next t → ∃ used, s.inp.bytes = used ++ t.inp.bytes ∧
    t.inp.ending = s.inp.ending ∧
    (s.ph = .done ∨ s.ph = .error → used = []) ∧
    (s.ph ≠ .done → s.ph ≠ .error →
      (t.status = .ok → used.length = 2 + t.psz.toNat) ∧
      (t.status = .eos → used.length = t.hgot.toNat ∧ t.hgot.toNat < 2 ∧ t.inp.bytes = []) ∧
      (t.status = .eTruncated → used.length = 2 + t.got.toNat ∧ t.got.toNat < t.psz.toNat ∧ t.inp.bytes = []))

/-- R152: the transaction-level PARSE and the byte-serial PARSE agree, result, registers, RXBUF, IN and hang alike, in
the phases that stand between operations. The form of a hang (entry 9) and that the byte-serial reading is a function
of its own (entry 15) are the model's choices. -/
def Obligations.SerialParseAgreesWithParse : Prop :=
  ∀ s : State, s.ph = .hdr0 ∨ s.ph = .done ∨ s.ph = .error → serialParse s = exec .parse s

/-- R155, R147 to R151: the detector's function as the spec tabulates it, and that each byte-serial step does what the
detector says. COMPLETE asks for no token, so it holds whatever the source does; every other step takes the token the
source gives, with exactly the registers of R147 to R149, or waits. That the byte-serial reading is a function of its
own (entry 15) and the form of a source that gives no token (entry 9) are the model's choices. -/
def Obligations.DetectorDecidesEachStep : Prop :=
  (∀ (ph : Phase) (got psz : Nat) (t : Token),
    (prd ph got psz t = .complete ↔ ph = .body ∧ got = psz) ∧
    (prd ph got psz t = .cleanEos ↔ (ph = .hdr0 ∨ ph = .hdr1) ∧ t = .eos) ∧
    (prd ph got psz t = .truncated ↔ ph = .body ∧ got < psz ∧ t = .eos)) ∧
  ∀ s : State, s.ph = .hdr0 ∨ s.ph = .hdr1 ∨ s.ph = .body → s.got.toNat ≤ s.psz.toNat →
    (∀ t : Token, prd s.ph s.got.toNat s.psz.toNat t = .complete →
      serialStep s = .ended { s with recv := true, ph := .hdr0, status := .ok }) ∧
    (¬ (s.ph = .body ∧ s.got = s.psz) → s.inp.bytes = [] → s.inp.ending = .never → serialStep s = .waits) ∧
    ∀ (s1 : State) (t : Token), inNext s = some (t, s1) →
      (prd s.ph s.got.toNat s.psz.toNat t = .cleanEos →
        serialStep s = .ended { s with ph := .done, status := .eos, flags := s.flags ||| 0b000001#6 }) ∧
      (prd s.ph s.got.toNat s.psz.toNat t = .truncated →
        serialStep s = .ended { s with ph := .error, status := .eTruncated, flags := s.flags ||| 0b000010#6 }) ∧
      (prd s.ph s.got.toNat s.psz.toNat t = .goOn →
        ∃ v u, t = .byte v ∧ serialStep s = .more u ∧ s.inp.bytes = v :: u.inp.bytes ∧
          u.inp.ending = s.inp.ending ∧
          (s.ph = .hdr0 → u = { s with ph := .hdr1, b0 := v, hgot := 1#2, inp := u.inp }) ∧
          (s.ph = .hdr1 → u.xsz.toNat = s.b0.toNat / 4 ∧ u.fsz.toNat = s.b0.toNat % 4 * 256 + v.toNat ∧
            u.psz.toNat = u.xsz.toNat + u.fsz.toNat ∧
            u = { s with
              ph := .body, b1 := v, hgot := 2#2, xsz := u.xsz, fsz := u.fsz, psz := u.psz, inp := u.inp }) ∧
          (s.ph = .body → u.rxbuf.read? s.got.toNat = some v ∧
            KeptOutside s.got.toNat (s.got.toNat + 1) s.rxbuf u.rxbuf ∧ u.got.toNat = s.got.toNat + 1 ∧
            u = { s with rxbuf := u.rxbuf, got := u.got, inp := u.inp }))

/-- R158: a stream of records and a tail, parsed from HDR0: the records in order, then the result the tail decides,
which every later PARSE repeats. -/
def Obligations.WholeStreamParsesToItsRecords : Prop :=
  ∀ (rs : List Record) (tail : List Byte) (s : State), (∀ r ∈ rs, r.fits) → s.ph = .hdr0 →
    s.inp = ⟨(rs.map Record.wire).flatten ++ tail, .eos⟩ →
    ∃ t, parseRecords rs.length s = some (rs, t) ∧ t.ph = .hdr0 ∧ t.inp = ⟨tail, .eos⟩ ∧
      (tail = [] → ∃ u, exec .parse t = .next u ∧ u.status = .eos ∧ u.hgot = 0#2 ∧ exec .parse u = .next u) ∧
      (∀ x, tail = [x] → ∃ u, exec .parse t = .next u ∧ u.status = .eos ∧ u.hgot = 1#2 ∧ u.b0 = x ∧
        exec .parse u = .next u) ∧
      (∀ (b0 b1 : Byte) (part : List Byte), tail = b0 :: b1 :: part →
        part.length < b0.toNat / 4 + (b0.toNat % 4 * 256 + b1.toNat) →
        ∃ u, exec .parse t = .next u ∧ u.status = .eTruncated ∧ u.recv = false ∧ exec .parse u = .next u)

/-- R157: only PARSE, the header it takes, and a reset change PH, and from HDR0 the phase a PARSE leaves is decided by
its result. -/
def Obligations.PhaseTransitions : Prop :=
  (∀ (i : Instr) (s t : State), i ≠ .parse → i ≠ .reset → (∀ c p, i ≠ .recordHeader c p) →
    exec i s = .next t → t.ph = s.ph) ∧
  (∀ s t : State, s.ph = .hdr0 → exec .parse s = .next t →
    (t.status = .ok ∧ t.ph = .hdr0) ∨ (t.status = .eos ∧ t.ph = .done) ∨
      (t.status = .eTruncated ∧ t.ph = .error)) ∧
  (∀ s t : State, s.ph = .done → exec .parse s = .next t → t.ph = .done ∧ t.status = .eos) ∧
  (∀ s t : State, s.ph = .error → exec .parse s = .next t → t.ph = .error ∧ t.status = .eTruncated) ∧
  ∀ s t : State, exec .reset s = .next t → t.ph = .hdr0 ∧ t.status = .ok

/-- R36, R144: no operation leaves RECV set unless it is a PARSE (or the header of one) that ended OK, or RECV was set
before and the parser has not been touched. -/
def Obligations.NoRecordIsFabricated : Prop :=
  ∀ (i : Instr) (s t : State), exec i s = .next t → t.recv = true →
    ((i = .parse ∨ ∃ c p, i = .recordHeader c p) ∧ t.status = .ok ∧ t.got = t.psz ∧
      ∀ a, a < t.psz.toNat → (t.rxbuf.read? a).isSome = true) ∨
    (s.recv = true ∧ t.rxbuf = s.rxbuf ∧ t.xsz = s.xsz ∧ t.fsz = s.fsz ∧ t.psz = s.psz ∧ t.got = s.got)

/-! ### System operations, results and reset -/

/-- R190, R43: RESET ends OK with every register as the table has it, every buffer byte without a value and the
streams untouched. -/
def Obligations.ResetReturnsToTheResetState : Prop :=
  ∀ s : State, ∃ t, exec .reset s = .next t ∧
    t.status = .ok ∧ t.flags = 0#6 ∧ t.ph = .hdr0 ∧ t.recv = false ∧ t.hgot = 0#2 ∧ t.b0 = 0#8 ∧ t.b1 = 0#8 ∧
    t.xsz = 0#6 ∧ t.fsz = 0#10 ∧ t.psz = 0#11 ∧ t.got = 0#11 ∧ t.hdr = 0#16 ∧ t.wlen = 0 ∧ t.wcur = 0 ∧
    (∀ (b : Buf) (a : Nat), (t.mem b).read? a = none) ∧
    t.inp = s.inp ∧ t.out = s.out ∧ t.cfg = s.cfg ∧ t.host = s.host

/-- R242: hardware reset of an idle block is the same transition as RESET; only the move that made it differs. -/
def Obligations.HardwareResetIsTheSameTransition : Prop :=
  ∀ (s : State) (w : CommandWord) (rest : List HostMove), opField w = 0xF#4 →
    step { s with host := .hardReset :: rest } = step { s with host := .command w :: rest }

/-- R241: the state after reset, for every `OBUF_CAP`: every register 0, no buffer byte written, and an idle block
that does nothing until a command comes. -/
def Obligations.StateAfterReset : Prop :=
  ∀ c : Config, ∀ s : State, s = State.resetWith c →
    s.status = .ok ∧ s.flags = 0#6 ∧ s.ph = .hdr0 ∧ s.recv = false ∧ s.hgot = 0#2 ∧ s.b0 = 0#8 ∧ s.b1 = 0#8 ∧
    s.xsz = 0#6 ∧ s.fsz = 0#10 ∧ s.psz = 0#11 ∧ s.got = 0#11 ∧ s.hdr = 0#16 ∧ s.wlen = 0 ∧ s.wcur = 0 ∧
    (∀ (b : Buf) (a : Nat), (s.mem b).read? a = none) ∧ s.cfg = c ∧ step s = .next s

/-- R191: the four codes that name nothing end E_ILLEGAL and change nothing else, whatever the operands. -/
def Obligations.IllegalCodesChangeNothingElse : Prop :=
  (∀ s : State,
    exec .illegal0 s = .next { s with status := .eIllegal, flags := s.flags ||| 0b100000#6 } ∧
    exec .illegalC s = .next { s with status := .eIllegal, flags := s.flags ||| 0b100000#6 } ∧
    exec .illegalD s = .next { s with status := .eIllegal, flags := s.flags ||| 0b100000#6 } ∧
    exec .illegalE s = .next { s with status := .eIllegal, flags := s.flags ||| 0b100000#6 }) ∧
  ∀ (s : State) (rest : List HostMove) (w : CommandWord), opField w ∈ [0x0#4, 0xC#4, 0xD#4, 0xE#4] →
    step { s with host := .command w :: rest } =
      .next { s with host := rest, status := .eIllegal, flags := s.flags ||| 0b100000#6 }

/-- R207: the results each operation can end with. -/
def Obligations.ResultsEachOperationCanEndWith : Prop :=
  ∀ (i : Instr) (s t : State), exec i s = .next t → t.status ∈ possibleResults i

/-- R209: the order of the checks. An illegal code or an operand out of range decides the result before anything else
is looked at; a PARSE's phase is checked before any read; E_OVERFLOW is reported only when the operands are in range.
-/
def Obligations.PriorityOfResults : Prop :=
  (∀ (i : Instr) (s : State) (r : Status), operandResult i = some r →
    ∃ t, exec i s = .next t ∧ t.status = r ∧ WriterKept s t ∧ ParserKept s t ∧ t.inp = s.inp ∧ t.out = s.out) ∧
  (∀ s : State, s.ph = .done → ∃ t, exec .parse s = .next t ∧ t.status = .eos ∧ t.inp = s.inp) ∧
  (∀ s : State, s.ph = .error → ∃ t, exec .parse s = .next t ∧ t.status = .eTruncated ∧ t.inp = s.inp) ∧
  ∀ (i : Instr) (s t : State), exec i s = .next t → t.status = .eOverflow → operandResult i = none

/-- R210: what a result other than OK changes. For the four that are no stream results, STATUS and FLAGS alone; for
EOS and E_TRUNCATED also PH and the parser's own state, never the writer's. -/
def Obligations.RefusedOperationsArePrecise : Prop :=
  ∀ (i : Instr) (s t : State), exec i s = .next t →
    (t.status = .eFieldTooLarge → t = { s with status := .eFieldTooLarge, flags := s.flags ||| 0b000100#6 }) ∧
    (t.status = .eOverflow → t = { s with status := .eOverflow, flags := s.flags ||| 0b001000#6 }) ∧
    (t.status = .eValueRange → t = { s with status := .eValueRange, flags := s.flags ||| 0b010000#6 }) ∧
    (t.status = .eIllegal → t = { s with status := .eIllegal, flags := s.flags ||| 0b100000#6 }) ∧
    (t.status = .eos → t.ph = .done ∧ t.flags = s.flags ||| 0b000001#6 ∧
      WriterKept s t ∧ SourcesKept s t ∧ t.out = s.out ∧ t.rxbuf = s.rxbuf ∧ ModelKept s t) ∧
    (t.status = .eTruncated → t.ph = .error ∧ t.flags = s.flags ||| 0b000010#6 ∧
      WriterKept s t ∧ SourcesKept s t ∧ t.out = s.out ∧ ModelKept s t)

/-- R35: bit k is set when an operation ends with STATUS value k + 1 and is never cleared except by reset or RESET,
which clears them all; and no operation reads FLAGS: with other flags it does the same in everything else. -/
def Obligations.FlagsAreStickyAndUnread : Prop :=
  (∀ (i : Instr) (s t : State) (k : Nat), i ≠ .reset → exec i s = .next t → k < 6 →
    (t.flags.getLsbD k = true ↔ s.flags.getLsbD k = true ∨ t.status.code.toNat = k + 1)) ∧
  (∀ s t : State, resetIsNext s → step s = .next t → t.flags = 0#6) ∧ State.reset.flags = 0#6 ∧
  (∀ (s t : State) (k : Nat), step s = .next t → s.flags.getLsbD k = true →
    t.flags.getLsbD k = true ∨ resetIsNext s) ∧
  (∀ (i : Instr) (s t : State) (f : BitVec 6), exec i s = .next t →
    ∃ f', exec i { s with flags := f } = .next { t with flags := f' }) ∧
  ∀ (i : Instr) (s : State) (f : BitVec 6) (r : Fault), exec i s = .fault r →
    exec i { s with flags := f } = .fault r

/-- R211: the writer's side and the parser's side share no state but STATUS and FLAGS: neither changes the other, and
what each does does not depend on the other. -/
def Obligations.TwoSidesShareOnlyTheResult : Prop :=
  (∀ (i : Instr) (s t : State), writerSide i = true → exec i s = .next t → SameParserSide s t) ∧
  (∀ (i : Instr) (s t : State), parserSide i = true → exec i s = .next t → SameWriterSide s t) ∧
  (∀ (i : Instr) (s s' t : State), writerSide i = true → SameWriterSide s s' → exec i s = .next t →
    ∃ t', exec i s' = .next t' ∧ SameWriterSide t t' ∧ t'.status = t.status) ∧
  (∀ (i : Instr) (s s' t : State), parserSide i = true → SameParserSide s s' → exec i s = .next t →
    ∃ t', exec i s' = .next t' ∧ SameParserSide t t' ∧ t'.status = t.status) ∧
  (∀ (i : Instr) (s s' : State) (r : Fault), writerSide i = true → SameWriterSide s s' → exec i s = .fault r →
    exec i s' = .fault r) ∧
  ∀ (i : Instr) (s s' : State) (r : Fault), parserSide i = true → SameParserSide s s' → exec i s = .fault r →
    exec i s' = .fault r

/-! ### The whole machine -/

/-- R45: the invariant holds after reset, for every admissible `OBUF_CAP`. -/
def Obligations.InvariantAfterReset : Prop :=
  ∀ c : Config, c.wf → Inv (State.resetWith c)

/-- R45: every step, whatever move the host or the environment makes, keeps the invariant. -/
def Obligations.EveryStepKeepsTheInvariant : Prop :=
  ∀ s t : State, Inv s → step s = .next t → Inv t

/-- R45.3: `GOT <= PSZ` is kept by every step but that of an UNPACK. -/
def Obligations.GotStaysWithinThePacket : Prop :=
  ∀ s t : State, Inv s → s.got.toNat ≤ s.psz.toNat → step s = .next t →
    (∀ (w : CommandWord) (rest : List HostMove), s.host = .command w :: rest → opField w ≠ 0xA#4) →
    t.got.toNat ≤ t.psz.toNat

/-- R38, R66, R173: a step leaves OUT as it was or appends one whole unit to it; an operation that does not end OK
appends nothing. -/
def Obligations.OutputGrowsByWholeUnits : Prop :=
  (∀ s t : State, step s = .next t →
    t.out = s.out ∨ ∃ u, u ≠ [] ∧ t.out.units = s.out.units ++ [u] ∧ t.out.bytes = s.out.bytes ++ u ∧
      t.wlen = u.length) ∧
  ∀ (i : Instr) (s t : State), exec i s = .next t → t.status ≠ .ok → t.out = s.out

/-- R44: no length, phase or result is computed from buffer contents, so whatever the buffers hold, written or not, an
operation ends the same way. -/
def Obligations.BufferContentsNeverSteerTheBlock : Prop :=
  (∀ (i : Instr) (s s' t : State), SameButBufferContents s s' → exec i s = .next t →
    ∃ t', exec i s' = .next t' ∧ SameButBufferContents t t') ∧
  ∀ (i : Instr) (s s' : State) (r : Fault), SameButBufferContents s s' → exec i s = .fault r →
    exec i s' = .fault r

/-- R221, R255: every operation that touches no stream ends; PARSE and the header it takes end when the stream does;
FLUSH and SER end when the sink takes their bytes, and FLUSH and SER hang exactly when it never does. The form of a
stall is the model's choice (entry 9). -/
def Obligations.OperationsEndUnlessAStreamStalls : Prop :=
  (∀ (i : Instr) (s : State), i ≠ .parse → (∀ c p, i ≠ .recordHeader c p) → i ≠ .flush → (∀ c p, i ≠ .ser c p) →
    ∃ t, exec i s = .next t) ∧
  (∀ s : State, s.inp.ending = .eos → ∃ t, exec .parse s = .next t) ∧
  (∀ (c p : Nat) (s : State), s.inp.ending = .eos → ∃ t, exec (.recordHeader c p) s = .next t) ∧
  (∀ s : State, exec .flush s = .fault .outputStalled ↔ ∃ k, s.out.accepts = some k ∧ k < s.wcur) ∧
  (∀ s : State, s.out.accepts = none → ∃ t, exec .flush s = .next t) ∧
  (∀ (c p : Nat) (s : State), exec (.ser c p) s = .fault .outputStalled ↔
    c ≤ 63 ∧ p ≤ 1023 ∧ 2 + c + p ≤ s.cfg.obufCap ∧ ∃ k, s.out.accepts = some k ∧ k < 2 + c + p) ∧
  ∀ (c p : Nat) (s : State), s.out.accepts = none → ∃ t, exec (.ser c p) s = .next t

/-- R71: UNPACK, PACK and SETCUR are idempotent; so is RESET, but that each reset makes a new draw of the unwritten
bytes, the model's own count. -/
def Obligations.RepeatableOperations : Prop :=
  (∀ (b0 b1 : Nat) (s t : State), exec (.unpack b0 b1) s = .next t → exec (.unpack b0 b1) t = .next t) ∧
  (∀ (c p : Nat) (s t : State), exec (.pack c p) s = .next t → exec (.pack c p) t = .next t) ∧
  (∀ (p : Nat) (s t : State), exec (.setcur p) s = .next t → exec (.setcur p) t = .next t) ∧
  ∀ s t : State, exec .reset s = .next t → ∃ d, exec .reset t = .next { t with draw := d }

/-- R6, R7, R20, R44: a step makes exactly the host's next move, never changes the parameter, and makes a new draw of
the unwritten bytes if its move is a reset, the RESET command or hardware reset, and only then. The moves and the draw
are the model's own fields (entries 4 and 5). -/
def Obligations.StepMakesOneMove : Prop :=
  ∀ s t : State, step s = .next t → t.cfg = s.cfg ∧ t.host = s.host.tail ∧
    (resetIsNext s → t.draw = s.draw + 1) ∧ (¬ resetIsNext s → t.draw = s.draw)

/-! ### The ports -/

/-- R41, with the values of R32 and R34: the status read port, for cursor values that 32 bits hold (all of them while
`OBUF_CAP` is below 2^32). What the port shows of a larger value is free (entry 14). -/
def Obligations.StatusPortReadsTheRegisters : Prop :=
  ∀ s : State, s.wlen < 2 ^ 32 → s.wcur < 2 ^ 32 →
    (s.readReg 0#5).toNat = (match s.status with
      | .ok => 0
      | .eos => 1
      | .eTruncated => 2
      | .eFieldTooLarge => 3
      | .eOverflow => 4
      | .eValueRange => 5
      | .eIllegal => 6) ∧
    (s.readReg 1#5).toNat = s.flags.toNat ∧
    (s.readReg 2#5).toNat = (match s.ph with
      | .hdr0 => 0
      | .hdr1 => 1
      | .body => 2
      | .done => 3
      | .error => 4) ∧
    (s.readReg 3#5).toNat = (if s.recv = true then 1 else 0) ∧
    (s.readReg 4#5).toNat = s.hgot.toNat ∧ (s.readReg 5#5).toNat = s.b0.toNat ∧
    (s.readReg 6#5).toNat = s.b1.toNat ∧ (s.readReg 7#5).toNat = s.xsz.toNat ∧
    (s.readReg 8#5).toNat = s.fsz.toNat ∧ (s.readReg 9#5).toNat = s.psz.toNat ∧
    (s.readReg 10#5).toNat = s.got.toNat ∧ (s.readReg 11#5).toNat = s.hdr.toNat ∧
    (s.readReg 12#5).toNat = s.wlen ∧ (s.readReg 13#5).toNat = s.wcur ∧
    ∀ n : BitVec 5, 14 ≤ n.toNat → s.readReg n = 0#32

/-- R24, R25, R73, R254: a host write of one source byte changes that byte and nothing else; beyond the capacity the
host has no such move. That the host has no such move is a refusal in the model (entry 17). -/
def Obligations.HostLoadWritesOneByte : Prop :=
  ∀ (s : State) (src : Source) (a : Nat) (v : Byte) (rest : List HostMove),
    s.host = .load src a v :: rest →
    (a < s.cfg.capacity src.buf → ∃ t, step s = .next t ∧ (t.mem src.buf).read? a = some v ∧
      (∀ x, x ≠ a → (t.mem src.buf).read? x = (s.mem src.buf).read? x) ∧
      (src = .cfg → t.paybuf = s.paybuf) ∧ (src = .pay → t.cfgbuf = s.cfgbuf) ∧
      WriterKept s t ∧ ParserKept s t ∧ t.status = s.status ∧ t.flags = s.flags ∧ t.inp = s.inp ∧
      t.out = s.out ∧ t.cfg = s.cfg ∧ t.draw = s.draw ∧ t.host = rest) ∧
    (s.cfg.capacity src.buf ≤ a → step s = .refused (.hostAddressBeyondBuffer src a))

/-- R243: attaching a stream replaces IN and nothing else, and is allowed only while PH is HDR0. The refusal is the
model's form (entry 17). -/
def Obligations.AttachReplacesTheInput : Prop :=
  ∀ (s : State) (stream : InStream) (rest : List HostMove), s.host = .attach stream :: rest →
    (s.ph = .hdr0 → step s = .next { s with inp := stream, host := rest }) ∧
    (s.ph ≠ .hdr0 → step s = .refused .attachOutsideHdr0)

/-! ### More of the header and of the ports -/

/-- R91, R141, R142, R145: the header that a PARSE takes completes in HDR0 in every state that holds the packet it
declares: the record is the next `c + p` bytes of IN, split after `c`, and IN goes on after them. In DONE and in ERROR
no header is taken, nothing is read and the result is repeated. That the header has a meaning of its own is the
model's choice (entry 8). -/
def Obligations.HeaderOnTheWireCompletes : Prop :=
  ∀ (c p : Nat) (s : State), c ≤ 63 → p ≤ 1023 →
    (s.ph = .hdr0 → c + p ≤ s.inp.bytes.length → ∃ t, exec (.recordHeader c p) s = .next t ∧
      t.status = .ok ∧ t.ph = .hdr0 ∧ t.recv = true ∧
      t.record? = some (s.inp.bytes.take c, (s.inp.bytes.drop c).take p) ∧
      t.inp.bytes = s.inp.bytes.drop (c + p)) ∧
    (s.ph = .done → exec (.recordHeader c p) s = .next { s with status := .eos, flags := s.flags ||| 0b000001#6 }) ∧
    (s.ph = .error →
      exec (.recordHeader c p) s = .next { s with status := .eTruncated, flags := s.flags ||| 0b000010#6 })

/-- R254, R73: the buffer read port shows each byte of OBUF and of RXBUF that has been written, below the capacity,
and no byte at or above it. That a byte which has not been written (R44) shows as the free byte of this draw, and that
there is no byte beyond the capacity, is the model's form (entries 3 and 17). -/
def Obligations.BufferReadPortShowsTheBytes : Prop :=
  ∀ (s : State) (a : Nat),
    (∀ v, a < s.cfg.obufCap → s.obuf.read? a = some v → s.hostRead false a = some v) ∧
    (∀ v, a < 1086 → s.rxbuf.read? a = some v → s.hostRead true a = some v) ∧
    (a < s.cfg.obufCap → s.obuf.read? a = none → s.hostRead false a = some (Config.freeByte s.draw .obuf a)) ∧
    (a < 1086 → s.rxbuf.read? a = none → s.hostRead true a = some (Config.freeByte s.draw .rxbuf a)) ∧
    (s.cfg.obufCap ≤ a → s.hostRead false a = none) ∧ (1086 ≤ a → s.hostRead true a = none)

/-! ### The state and what is no state -/

/-- R20, R21: the sequence of future commands is no state of the block: whatever moves are to come, an operation ends
the same way, in the same block, and leaves them as they are. That they stand in the record beside the block is the
model's choice (entry 5). -/
def Obligations.FutureCommandsAreNoState : Prop :=
  (∀ (i : Instr) (s t : State), exec i s = .next t → t.host = s.host) ∧
  (∀ (i : Instr) (s t : State) (moves : List HostMove), exec i s = .next t →
    exec i { s with host := moves } = .next { t with host := moves }) ∧
  ∀ (i : Instr) (s : State) (moves : List HostMove) (r : Fault), exec i s = .fault r →
    exec i { s with host := moves } = .fault r
end

