-- ==== Sys2Proof/Laws/Decode.lean ====
section
/-! SUPPORT. The fields of encoded words: what the decoder takes out is what the encoder put in. -/

namespace Sys2Proof

@[simp] theorem opField_commandWord (op : BitVec 4) (a b : Nat) : opField (commandWord op a b) = op := by
  ext i hi
  simp only [opField, commandWord, BitVec.getElem_extractLsb', BitVec.getLsbD_append]
  have h1 : ¬ (64 + i < 32) := by omega
  have h2 : ¬ (64 + i - 32 < 32) := by omega
  simp [h1, h2, show 64 + i - 32 - 32 = i by omega, BitVec.getLsbD_eq_getElem hi]

theorem aField_commandWord (op : BitVec 4) (a b : Nat) (h : a < 2 ^ 32) : aField (commandWord op a b) = a := by
  simp only [aField, commandWord, BitVec.extractLsb'_toNat, BitVec.toNat_append, BitVec.toNat_ofNat,
    Nat.shiftRight_eq_div_pow]
  have hb : b % 2 ^ 32 < 2 ^ 32 := Nat.mod_lt _ (by decide)
  rw [Nat.mod_eq_of_lt h, ← Nat.shiftLeft_add_eq_or_of_lt hb, Nat.shiftLeft_eq,
    ← Nat.shiftLeft_add_eq_or_of_lt h, Nat.shiftLeft_eq]
  omega

theorem bField_commandWord (op : BitVec 4) (a b : Nat) (h : b < 2 ^ 32) : bField (commandWord op a b) = b := by
  simp only [bField, commandWord, BitVec.extractLsb'_toNat, BitVec.toNat_append, BitVec.toNat_ofNat,
    Nat.shiftRight_zero]
  rw [Nat.mod_eq_of_lt h, ← Nat.shiftLeft_add_eq_or_of_lt h, Nat.shiftLeft_eq]
  omega

theorem fitsField_iff (width v : Nat) : fitsField width v = true ↔ v < 2 ^ width := by
  simp [fitsField]

/-- A decoded operand fits its field. -/
theorem aField_lt (w : CommandWord) : aField w < 2 ^ 32 := BitVec.isLt _

theorem bField_lt (w : CommandWord) : bField w < 2 ^ 32 := BitVec.isLt _

/-- A command word is its three fields. -/
theorem commandWord_fields (w : CommandWord) : commandWord (opField w) (aField w) (bField w) = w := by
  ext i hi
  simp only [commandWord, opField, aField, bField, BitVec.ofNat_toNat, BitVec.setWidth_eq]
  rw [← BitVec.getLsbD_eq_getElem, ← BitVec.getLsbD_eq_getElem]
  simp only [BitVec.getLsbD_append, BitVec.getLsbD_extractLsb']
  by_cases h1 : i < 32
  · simp [h1]
  · by_cases h2 : i - 32 < 32
    · simp [h1, h2, show 32 + (i - 32) = i by omega]
    · simp [h1, h2, show i - 32 - 32 < 4 by omega, show 64 + (i - 32 - 32) = i by omega]

/-- A command is decoded by its `op` field and its operands (R100). -/
theorem decodeCommand_commandWord (op : BitVec 4) (a b : Nat) (ha : a < 2 ^ 32) (hb : b < 2 ^ 32) :
    decodeCommand (commandWord op a b) = decodeFields op a b := by
  rw [decodeCommand, opField_commandWord, aField_commandWord op a b ha, bField_commandWord op a b hb]

/-! ### The operation codes, one lemma each (R100) -/

@[simp] theorem decodeFields_illegal0 (a b : Nat) : decodeFields 0x0#4 a b = .illegal0 := rfl
@[simp] theorem decodeFields_wr8 (a b : Nat) : decodeFields 0x1#4 a b = .wr8 a := rfl
@[simp] theorem decodeFields_wr16 (a b : Nat) : decodeFields 0x2#4 a b = .wr16 a := rfl
@[simp] theorem decodeFields_wr24 (a b : Nat) : decodeFields 0x3#4 a b = .wr24 a := rfl
@[simp] theorem decodeFields_wr32 (a b : Nat) : decodeFields 0x4#4 a b = .wr32 a := rfl
@[simp] theorem decodeFields_wrn (a b : Nat) : decodeFields 0x5#4 a b = .wrn a b := rfl
@[simp] theorem decodeFields_setcur (a b : Nat) : decodeFields 0x6#4 a b = .setcur a := rfl
@[simp] theorem decodeFields_flush (a b : Nat) : decodeFields 0x7#4 a b = .flush := rfl
@[simp] theorem decodeFields_pack (a b : Nat) : decodeFields 0x8#4 a b = .pack a b := rfl
@[simp] theorem decodeFields_ser (a b : Nat) : decodeFields 0x9#4 a b = .ser a b := rfl
@[simp] theorem decodeFields_unpack (a b : Nat) : decodeFields 0xA#4 a b = .unpack a b := rfl
@[simp] theorem decodeFields_parse (a b : Nat) : decodeFields 0xB#4 a b = .parse := rfl
@[simp] theorem decodeFields_illegalC (a b : Nat) : decodeFields 0xC#4 a b = .illegalC := rfl
@[simp] theorem decodeFields_illegalD (a b : Nat) : decodeFields 0xD#4 a b = .illegalD := rfl
@[simp] theorem decodeFields_illegalE (a b : Nat) : decodeFields 0xE#4 a b = .illegalE := rfl
@[simp] theorem decodeFields_reset (a b : Nat) : decodeFields 0xF#4 a b = .reset := rfl

/-- There are 16 codes: what holds of each of them holds of every code. -/
theorem opcode_cases {P : BitVec 4 → Prop} (h : ∀ n, n < 16 → P (BitVec.ofNat 4 n)) (op : BitVec 4) : P op := by
  have := h op.toNat op.isLt
  rwa [BitVec.ofNat_toNat, BitVec.setWidth_eq] at this

/-- The `a` field of any command word that was put together (R99). -/
theorem aField_commandWord_mod (op : BitVec 4) (a b : Nat) : aField (commandWord op a b) = a % 2 ^ 32 := by
  have h : commandWord op a b = commandWord op (a % 2 ^ 32) b := by
    have : BitVec.ofNat 32 a = BitVec.ofNat 32 (a % 2 ^ 32) := by
      apply BitVec.eq_of_toNat_eq
      simp
    simp only [commandWord, this]
  rw [h, aField_commandWord _ _ _ (Nat.mod_lt _ (by decide))]

end Sys2Proof
end

