-- ==== Sys2Proof/Laws/State.lean ====
section
/-! SUPPORT. What each register update does to each field of State, all true by `rfl`: later proofs rewrite with these and
unfold no record update. -/

namespace Sys2Proof.Machine

/-! ### `State.storeObuf` -/

@[simp] theorem State.storeObuf_cfg (addr : Nat) (bs : List Byte) (s : State) : (s.storeObuf addr bs).cfg = s.cfg := rfl
@[simp] theorem State.storeObuf_wcur (addr : Nat) (bs : List Byte) (s : State) : (s.storeObuf addr bs).wcur = s.wcur := rfl
@[simp] theorem State.storeObuf_obuf (addr : Nat) (bs : List Byte) (s : State) : (s.storeObuf addr bs).obuf = s.obuf.writeBytes addr bs := rfl
@[simp] theorem State.storeObuf_cfgbuf (addr : Nat) (bs : List Byte) (s : State) : (s.storeObuf addr bs).cfgbuf = s.cfgbuf := rfl
@[simp] theorem State.storeObuf_paybuf (addr : Nat) (bs : List Byte) (s : State) : (s.storeObuf addr bs).paybuf = s.paybuf := rfl
@[simp] theorem State.storeObuf_hdr (addr : Nat) (bs : List Byte) (s : State) : (s.storeObuf addr bs).hdr = s.hdr := rfl
@[simp] theorem State.storeObuf_wlen (addr : Nat) (bs : List Byte) (s : State) : (s.storeObuf addr bs).wlen = s.wlen := rfl
@[simp] theorem State.storeObuf_ph (addr : Nat) (bs : List Byte) (s : State) : (s.storeObuf addr bs).ph = s.ph := rfl
@[simp] theorem State.storeObuf_b0 (addr : Nat) (bs : List Byte) (s : State) : (s.storeObuf addr bs).b0 = s.b0 := rfl
@[simp] theorem State.storeObuf_b1 (addr : Nat) (bs : List Byte) (s : State) : (s.storeObuf addr bs).b1 = s.b1 := rfl
@[simp] theorem State.storeObuf_hgot (addr : Nat) (bs : List Byte) (s : State) : (s.storeObuf addr bs).hgot = s.hgot := rfl
@[simp] theorem State.storeObuf_xsz (addr : Nat) (bs : List Byte) (s : State) : (s.storeObuf addr bs).xsz = s.xsz := rfl
@[simp] theorem State.storeObuf_fsz (addr : Nat) (bs : List Byte) (s : State) : (s.storeObuf addr bs).fsz = s.fsz := rfl
@[simp] theorem State.storeObuf_psz (addr : Nat) (bs : List Byte) (s : State) : (s.storeObuf addr bs).psz = s.psz := rfl
@[simp] theorem State.storeObuf_got (addr : Nat) (bs : List Byte) (s : State) : (s.storeObuf addr bs).got = s.got := rfl
@[simp] theorem State.storeObuf_recv (addr : Nat) (bs : List Byte) (s : State) : (s.storeObuf addr bs).recv = s.recv := rfl
@[simp] theorem State.storeObuf_rxbuf (addr : Nat) (bs : List Byte) (s : State) : (s.storeObuf addr bs).rxbuf = s.rxbuf := rfl
@[simp] theorem State.storeObuf_status (addr : Nat) (bs : List Byte) (s : State) : (s.storeObuf addr bs).status = s.status := rfl
@[simp] theorem State.storeObuf_flags (addr : Nat) (bs : List Byte) (s : State) : (s.storeObuf addr bs).flags = s.flags := rfl
@[simp] theorem State.storeObuf_inp (addr : Nat) (bs : List Byte) (s : State) : (s.storeObuf addr bs).inp = s.inp := rfl
@[simp] theorem State.storeObuf_out (addr : Nat) (bs : List Byte) (s : State) : (s.storeObuf addr bs).out = s.out := rfl
@[simp] theorem State.storeObuf_draw (addr : Nat) (bs : List Byte) (s : State) : (s.storeObuf addr bs).draw = s.draw := rfl
@[simp] theorem State.storeObuf_host (addr : Nat) (bs : List Byte) (s : State) : (s.storeObuf addr bs).host = s.host := rfl

/-! ### `State.setCursor` -/

@[simp] theorem State.setCursor_cfg (n : Nat) (s : State) : (s.setCursor n).cfg = s.cfg := rfl
@[simp] theorem State.setCursor_wcur (n : Nat) (s : State) : (s.setCursor n).wcur = n := rfl
@[simp] theorem State.setCursor_obuf (n : Nat) (s : State) : (s.setCursor n).obuf = s.obuf := rfl
@[simp] theorem State.setCursor_cfgbuf (n : Nat) (s : State) : (s.setCursor n).cfgbuf = s.cfgbuf := rfl
@[simp] theorem State.setCursor_paybuf (n : Nat) (s : State) : (s.setCursor n).paybuf = s.paybuf := rfl
@[simp] theorem State.setCursor_hdr (n : Nat) (s : State) : (s.setCursor n).hdr = s.hdr := rfl
@[simp] theorem State.setCursor_wlen (n : Nat) (s : State) : (s.setCursor n).wlen = s.wlen := rfl
@[simp] theorem State.setCursor_ph (n : Nat) (s : State) : (s.setCursor n).ph = s.ph := rfl
@[simp] theorem State.setCursor_b0 (n : Nat) (s : State) : (s.setCursor n).b0 = s.b0 := rfl
@[simp] theorem State.setCursor_b1 (n : Nat) (s : State) : (s.setCursor n).b1 = s.b1 := rfl
@[simp] theorem State.setCursor_hgot (n : Nat) (s : State) : (s.setCursor n).hgot = s.hgot := rfl
@[simp] theorem State.setCursor_xsz (n : Nat) (s : State) : (s.setCursor n).xsz = s.xsz := rfl
@[simp] theorem State.setCursor_fsz (n : Nat) (s : State) : (s.setCursor n).fsz = s.fsz := rfl
@[simp] theorem State.setCursor_psz (n : Nat) (s : State) : (s.setCursor n).psz = s.psz := rfl
@[simp] theorem State.setCursor_got (n : Nat) (s : State) : (s.setCursor n).got = s.got := rfl
@[simp] theorem State.setCursor_recv (n : Nat) (s : State) : (s.setCursor n).recv = s.recv := rfl
@[simp] theorem State.setCursor_rxbuf (n : Nat) (s : State) : (s.setCursor n).rxbuf = s.rxbuf := rfl
@[simp] theorem State.setCursor_status (n : Nat) (s : State) : (s.setCursor n).status = s.status := rfl
@[simp] theorem State.setCursor_flags (n : Nat) (s : State) : (s.setCursor n).flags = s.flags := rfl
@[simp] theorem State.setCursor_inp (n : Nat) (s : State) : (s.setCursor n).inp = s.inp := rfl
@[simp] theorem State.setCursor_out (n : Nat) (s : State) : (s.setCursor n).out = s.out := rfl
@[simp] theorem State.setCursor_draw (n : Nat) (s : State) : (s.setCursor n).draw = s.draw := rfl
@[simp] theorem State.setCursor_host (n : Nat) (s : State) : (s.setCursor n).host = s.host := rfl

/-! ### `State.setHeader` -/

@[simp] theorem State.setHeader_cfg (h : BitVec 16) (s : State) : (s.setHeader h).cfg = s.cfg := rfl
@[simp] theorem State.setHeader_wcur (h : BitVec 16) (s : State) : (s.setHeader h).wcur = s.wcur := rfl
@[simp] theorem State.setHeader_obuf (h : BitVec 16) (s : State) : (s.setHeader h).obuf = s.obuf := rfl
@[simp] theorem State.setHeader_cfgbuf (h : BitVec 16) (s : State) : (s.setHeader h).cfgbuf = s.cfgbuf := rfl
@[simp] theorem State.setHeader_paybuf (h : BitVec 16) (s : State) : (s.setHeader h).paybuf = s.paybuf := rfl
@[simp] theorem State.setHeader_hdr (h : BitVec 16) (s : State) : (s.setHeader h).hdr = h := rfl
@[simp] theorem State.setHeader_wlen (h : BitVec 16) (s : State) : (s.setHeader h).wlen = s.wlen := rfl
@[simp] theorem State.setHeader_ph (h : BitVec 16) (s : State) : (s.setHeader h).ph = s.ph := rfl
@[simp] theorem State.setHeader_b0 (h : BitVec 16) (s : State) : (s.setHeader h).b0 = s.b0 := rfl
@[simp] theorem State.setHeader_b1 (h : BitVec 16) (s : State) : (s.setHeader h).b1 = s.b1 := rfl
@[simp] theorem State.setHeader_hgot (h : BitVec 16) (s : State) : (s.setHeader h).hgot = s.hgot := rfl
@[simp] theorem State.setHeader_xsz (h : BitVec 16) (s : State) : (s.setHeader h).xsz = s.xsz := rfl
@[simp] theorem State.setHeader_fsz (h : BitVec 16) (s : State) : (s.setHeader h).fsz = s.fsz := rfl
@[simp] theorem State.setHeader_psz (h : BitVec 16) (s : State) : (s.setHeader h).psz = s.psz := rfl
@[simp] theorem State.setHeader_got (h : BitVec 16) (s : State) : (s.setHeader h).got = s.got := rfl
@[simp] theorem State.setHeader_recv (h : BitVec 16) (s : State) : (s.setHeader h).recv = s.recv := rfl
@[simp] theorem State.setHeader_rxbuf (h : BitVec 16) (s : State) : (s.setHeader h).rxbuf = s.rxbuf := rfl
@[simp] theorem State.setHeader_status (h : BitVec 16) (s : State) : (s.setHeader h).status = s.status := rfl
@[simp] theorem State.setHeader_flags (h : BitVec 16) (s : State) : (s.setHeader h).flags = s.flags := rfl
@[simp] theorem State.setHeader_inp (h : BitVec 16) (s : State) : (s.setHeader h).inp = s.inp := rfl
@[simp] theorem State.setHeader_out (h : BitVec 16) (s : State) : (s.setHeader h).out = s.out := rfl
@[simp] theorem State.setHeader_draw (h : BitVec 16) (s : State) : (s.setHeader h).draw = s.draw := rfl
@[simp] theorem State.setHeader_host (h : BitVec 16) (s : State) : (s.setHeader h).host = s.host := rfl

/-! ### `State.committed` -/

@[simp] theorem State.committed_cfg (n : Nat) (s : State) : (s.committed n).cfg = s.cfg := rfl
@[simp] theorem State.committed_wcur (n : Nat) (s : State) : (s.committed n).wcur = 0 := rfl
@[simp] theorem State.committed_obuf (n : Nat) (s : State) : (s.committed n).obuf = s.obuf := rfl
@[simp] theorem State.committed_cfgbuf (n : Nat) (s : State) : (s.committed n).cfgbuf = s.cfgbuf := rfl
@[simp] theorem State.committed_paybuf (n : Nat) (s : State) : (s.committed n).paybuf = s.paybuf := rfl
@[simp] theorem State.committed_hdr (n : Nat) (s : State) : (s.committed n).hdr = s.hdr := rfl
@[simp] theorem State.committed_wlen (n : Nat) (s : State) : (s.committed n).wlen = n := rfl
@[simp] theorem State.committed_ph (n : Nat) (s : State) : (s.committed n).ph = s.ph := rfl
@[simp] theorem State.committed_b0 (n : Nat) (s : State) : (s.committed n).b0 = s.b0 := rfl
@[simp] theorem State.committed_b1 (n : Nat) (s : State) : (s.committed n).b1 = s.b1 := rfl
@[simp] theorem State.committed_hgot (n : Nat) (s : State) : (s.committed n).hgot = s.hgot := rfl
@[simp] theorem State.committed_xsz (n : Nat) (s : State) : (s.committed n).xsz = s.xsz := rfl
@[simp] theorem State.committed_fsz (n : Nat) (s : State) : (s.committed n).fsz = s.fsz := rfl
@[simp] theorem State.committed_psz (n : Nat) (s : State) : (s.committed n).psz = s.psz := rfl
@[simp] theorem State.committed_got (n : Nat) (s : State) : (s.committed n).got = s.got := rfl
@[simp] theorem State.committed_recv (n : Nat) (s : State) : (s.committed n).recv = s.recv := rfl
@[simp] theorem State.committed_rxbuf (n : Nat) (s : State) : (s.committed n).rxbuf = s.rxbuf := rfl
@[simp] theorem State.committed_status (n : Nat) (s : State) : (s.committed n).status = s.status := rfl
@[simp] theorem State.committed_flags (n : Nat) (s : State) : (s.committed n).flags = s.flags := rfl
@[simp] theorem State.committed_inp (n : Nat) (s : State) : (s.committed n).inp = s.inp := rfl
@[simp] theorem State.committed_out (n : Nat) (s : State) : (s.committed n).out = s.out := rfl
@[simp] theorem State.committed_draw (n : Nat) (s : State) : (s.committed n).draw = s.draw := rfl
@[simp] theorem State.committed_host (n : Nat) (s : State) : (s.committed n).host = s.host := rfl

/-! ### `State.setLengths` -/

@[simp] theorem State.setLengths_cfg (v0 v1 : Byte) (s : State) : (s.setLengths v0 v1).cfg = s.cfg := rfl
@[simp] theorem State.setLengths_wcur (v0 v1 : Byte) (s : State) : (s.setLengths v0 v1).wcur = s.wcur := rfl
@[simp] theorem State.setLengths_obuf (v0 v1 : Byte) (s : State) : (s.setLengths v0 v1).obuf = s.obuf := rfl
@[simp] theorem State.setLengths_cfgbuf (v0 v1 : Byte) (s : State) : (s.setLengths v0 v1).cfgbuf = s.cfgbuf := rfl
@[simp] theorem State.setLengths_paybuf (v0 v1 : Byte) (s : State) : (s.setLengths v0 v1).paybuf = s.paybuf := rfl
@[simp] theorem State.setLengths_hdr (v0 v1 : Byte) (s : State) : (s.setLengths v0 v1).hdr = s.hdr := rfl
@[simp] theorem State.setLengths_wlen (v0 v1 : Byte) (s : State) : (s.setLengths v0 v1).wlen = s.wlen := rfl
@[simp] theorem State.setLengths_ph (v0 v1 : Byte) (s : State) : (s.setLengths v0 v1).ph = s.ph := rfl
@[simp] theorem State.setLengths_b0 (v0 v1 : Byte) (s : State) : (s.setLengths v0 v1).b0 = v0 := rfl
@[simp] theorem State.setLengths_b1 (v0 v1 : Byte) (s : State) : (s.setLengths v0 v1).b1 = v1 := rfl
@[simp] theorem State.setLengths_hgot (v0 v1 : Byte) (s : State) : (s.setLengths v0 v1).hgot = s.hgot := rfl
@[simp] theorem State.setLengths_xsz (v0 v1 : Byte) (s : State) : (s.setLengths v0 v1).xsz = extradataSize v0 := rfl
@[simp] theorem State.setLengths_fsz (v0 v1 : Byte) (s : State) : (s.setLengths v0 v1).fsz = framedataSize v0 v1 := rfl
@[simp] theorem State.setLengths_psz (v0 v1 : Byte) (s : State) : (s.setLengths v0 v1).psz = packetSize (extradataSize v0) (framedataSize v0 v1) := rfl
@[simp] theorem State.setLengths_got (v0 v1 : Byte) (s : State) : (s.setLengths v0 v1).got = s.got := rfl
@[simp] theorem State.setLengths_recv (v0 v1 : Byte) (s : State) : (s.setLengths v0 v1).recv = s.recv := rfl
@[simp] theorem State.setLengths_rxbuf (v0 v1 : Byte) (s : State) : (s.setLengths v0 v1).rxbuf = s.rxbuf := rfl
@[simp] theorem State.setLengths_status (v0 v1 : Byte) (s : State) : (s.setLengths v0 v1).status = s.status := rfl
@[simp] theorem State.setLengths_flags (v0 v1 : Byte) (s : State) : (s.setLengths v0 v1).flags = s.flags := rfl
@[simp] theorem State.setLengths_inp (v0 v1 : Byte) (s : State) : (s.setLengths v0 v1).inp = s.inp := rfl
@[simp] theorem State.setLengths_out (v0 v1 : Byte) (s : State) : (s.setLengths v0 v1).out = s.out := rfl
@[simp] theorem State.setLengths_draw (v0 v1 : Byte) (s : State) : (s.setLengths v0 v1).draw = s.draw := rfl
@[simp] theorem State.setLengths_host (v0 v1 : Byte) (s : State) : (s.setLengths v0 v1).host = s.host := rfl

/-! ### `State.clearRecord` -/

@[simp] theorem State.clearRecord_cfg (s : State) : (s.clearRecord).cfg = s.cfg := rfl
@[simp] theorem State.clearRecord_wcur (s : State) : (s.clearRecord).wcur = s.wcur := rfl
@[simp] theorem State.clearRecord_obuf (s : State) : (s.clearRecord).obuf = s.obuf := rfl
@[simp] theorem State.clearRecord_cfgbuf (s : State) : (s.clearRecord).cfgbuf = s.cfgbuf := rfl
@[simp] theorem State.clearRecord_paybuf (s : State) : (s.clearRecord).paybuf = s.paybuf := rfl
@[simp] theorem State.clearRecord_hdr (s : State) : (s.clearRecord).hdr = s.hdr := rfl
@[simp] theorem State.clearRecord_wlen (s : State) : (s.clearRecord).wlen = s.wlen := rfl
@[simp] theorem State.clearRecord_ph (s : State) : (s.clearRecord).ph = s.ph := rfl
@[simp] theorem State.clearRecord_b0 (s : State) : (s.clearRecord).b0 = s.b0 := rfl
@[simp] theorem State.clearRecord_b1 (s : State) : (s.clearRecord).b1 = s.b1 := rfl
@[simp] theorem State.clearRecord_hgot (s : State) : (s.clearRecord).hgot = s.hgot := rfl
@[simp] theorem State.clearRecord_xsz (s : State) : (s.clearRecord).xsz = s.xsz := rfl
@[simp] theorem State.clearRecord_fsz (s : State) : (s.clearRecord).fsz = s.fsz := rfl
@[simp] theorem State.clearRecord_psz (s : State) : (s.clearRecord).psz = s.psz := rfl
@[simp] theorem State.clearRecord_got (s : State) : (s.clearRecord).got = s.got := rfl
@[simp] theorem State.clearRecord_recv (s : State) : (s.clearRecord).recv = false := rfl
@[simp] theorem State.clearRecord_rxbuf (s : State) : (s.clearRecord).rxbuf = s.rxbuf := rfl
@[simp] theorem State.clearRecord_status (s : State) : (s.clearRecord).status = s.status := rfl
@[simp] theorem State.clearRecord_flags (s : State) : (s.clearRecord).flags = s.flags := rfl
@[simp] theorem State.clearRecord_inp (s : State) : (s.clearRecord).inp = s.inp := rfl
@[simp] theorem State.clearRecord_out (s : State) : (s.clearRecord).out = s.out := rfl
@[simp] theorem State.clearRecord_draw (s : State) : (s.clearRecord).draw = s.draw := rfl
@[simp] theorem State.clearRecord_host (s : State) : (s.clearRecord).host = s.host := rfl

/-! ### `State.startParse` -/

@[simp] theorem State.startParse_cfg (s : State) : (s.startParse).cfg = s.cfg := rfl
@[simp] theorem State.startParse_wcur (s : State) : (s.startParse).wcur = s.wcur := rfl
@[simp] theorem State.startParse_obuf (s : State) : (s.startParse).obuf = s.obuf := rfl
@[simp] theorem State.startParse_cfgbuf (s : State) : (s.startParse).cfgbuf = s.cfgbuf := rfl
@[simp] theorem State.startParse_paybuf (s : State) : (s.startParse).paybuf = s.paybuf := rfl
@[simp] theorem State.startParse_hdr (s : State) : (s.startParse).hdr = s.hdr := rfl
@[simp] theorem State.startParse_wlen (s : State) : (s.startParse).wlen = s.wlen := rfl
@[simp] theorem State.startParse_ph (s : State) : (s.startParse).ph = s.ph := rfl
@[simp] theorem State.startParse_b0 (s : State) : (s.startParse).b0 = 0#8 := rfl
@[simp] theorem State.startParse_b1 (s : State) : (s.startParse).b1 = 0#8 := rfl
@[simp] theorem State.startParse_hgot (s : State) : (s.startParse).hgot = 0#2 := rfl
@[simp] theorem State.startParse_xsz (s : State) : (s.startParse).xsz = 0#6 := rfl
@[simp] theorem State.startParse_fsz (s : State) : (s.startParse).fsz = 0#10 := rfl
@[simp] theorem State.startParse_psz (s : State) : (s.startParse).psz = 0#11 := rfl
@[simp] theorem State.startParse_got (s : State) : (s.startParse).got = 0#11 := rfl
@[simp] theorem State.startParse_recv (s : State) : (s.startParse).recv = false := rfl
@[simp] theorem State.startParse_rxbuf (s : State) : (s.startParse).rxbuf = s.rxbuf := rfl
@[simp] theorem State.startParse_status (s : State) : (s.startParse).status = s.status := rfl
@[simp] theorem State.startParse_flags (s : State) : (s.startParse).flags = s.flags := rfl
@[simp] theorem State.startParse_inp (s : State) : (s.startParse).inp = s.inp := rfl
@[simp] theorem State.startParse_out (s : State) : (s.startParse).out = s.out := rfl
@[simp] theorem State.startParse_draw (s : State) : (s.startParse).draw = s.draw := rfl
@[simp] theorem State.startParse_host (s : State) : (s.startParse).host = s.host := rfl

/-! ### `State.takeByte0` -/

@[simp] theorem State.takeByte0_cfg (v : Byte) (s : State) : (s.takeByte0 v).cfg = s.cfg := rfl
@[simp] theorem State.takeByte0_wcur (v : Byte) (s : State) : (s.takeByte0 v).wcur = s.wcur := rfl
@[simp] theorem State.takeByte0_obuf (v : Byte) (s : State) : (s.takeByte0 v).obuf = s.obuf := rfl
@[simp] theorem State.takeByte0_cfgbuf (v : Byte) (s : State) : (s.takeByte0 v).cfgbuf = s.cfgbuf := rfl
@[simp] theorem State.takeByte0_paybuf (v : Byte) (s : State) : (s.takeByte0 v).paybuf = s.paybuf := rfl
@[simp] theorem State.takeByte0_hdr (v : Byte) (s : State) : (s.takeByte0 v).hdr = s.hdr := rfl
@[simp] theorem State.takeByte0_wlen (v : Byte) (s : State) : (s.takeByte0 v).wlen = s.wlen := rfl
@[simp] theorem State.takeByte0_ph (v : Byte) (s : State) : (s.takeByte0 v).ph = s.ph := rfl
@[simp] theorem State.takeByte0_b0 (v : Byte) (s : State) : (s.takeByte0 v).b0 = v := rfl
@[simp] theorem State.takeByte0_b1 (v : Byte) (s : State) : (s.takeByte0 v).b1 = s.b1 := rfl
@[simp] theorem State.takeByte0_hgot (v : Byte) (s : State) : (s.takeByte0 v).hgot = 1#2 := rfl
@[simp] theorem State.takeByte0_xsz (v : Byte) (s : State) : (s.takeByte0 v).xsz = s.xsz := rfl
@[simp] theorem State.takeByte0_fsz (v : Byte) (s : State) : (s.takeByte0 v).fsz = s.fsz := rfl
@[simp] theorem State.takeByte0_psz (v : Byte) (s : State) : (s.takeByte0 v).psz = s.psz := rfl
@[simp] theorem State.takeByte0_got (v : Byte) (s : State) : (s.takeByte0 v).got = s.got := rfl
@[simp] theorem State.takeByte0_recv (v : Byte) (s : State) : (s.takeByte0 v).recv = s.recv := rfl
@[simp] theorem State.takeByte0_rxbuf (v : Byte) (s : State) : (s.takeByte0 v).rxbuf = s.rxbuf := rfl
@[simp] theorem State.takeByte0_status (v : Byte) (s : State) : (s.takeByte0 v).status = s.status := rfl
@[simp] theorem State.takeByte0_flags (v : Byte) (s : State) : (s.takeByte0 v).flags = s.flags := rfl
@[simp] theorem State.takeByte0_inp (v : Byte) (s : State) : (s.takeByte0 v).inp = s.inp := rfl
@[simp] theorem State.takeByte0_out (v : Byte) (s : State) : (s.takeByte0 v).out = s.out := rfl
@[simp] theorem State.takeByte0_draw (v : Byte) (s : State) : (s.takeByte0 v).draw = s.draw := rfl
@[simp] theorem State.takeByte0_host (v : Byte) (s : State) : (s.takeByte0 v).host = s.host := rfl

/-! ### `State.takeByte1` -/

@[simp] theorem State.takeByte1_cfg (v : Byte) (s : State) : (s.takeByte1 v).cfg = s.cfg := rfl
@[simp] theorem State.takeByte1_wcur (v : Byte) (s : State) : (s.takeByte1 v).wcur = s.wcur := rfl
@[simp] theorem State.takeByte1_obuf (v : Byte) (s : State) : (s.takeByte1 v).obuf = s.obuf := rfl
@[simp] theorem State.takeByte1_cfgbuf (v : Byte) (s : State) : (s.takeByte1 v).cfgbuf = s.cfgbuf := rfl
@[simp] theorem State.takeByte1_paybuf (v : Byte) (s : State) : (s.takeByte1 v).paybuf = s.paybuf := rfl
@[simp] theorem State.takeByte1_hdr (v : Byte) (s : State) : (s.takeByte1 v).hdr = s.hdr := rfl
@[simp] theorem State.takeByte1_wlen (v : Byte) (s : State) : (s.takeByte1 v).wlen = s.wlen := rfl
@[simp] theorem State.takeByte1_ph (v : Byte) (s : State) : (s.takeByte1 v).ph = s.ph := rfl
@[simp] theorem State.takeByte1_b0 (v : Byte) (s : State) : (s.takeByte1 v).b0 = s.b0 := rfl
@[simp] theorem State.takeByte1_b1 (v : Byte) (s : State) : (s.takeByte1 v).b1 = v := rfl
@[simp] theorem State.takeByte1_hgot (v : Byte) (s : State) : (s.takeByte1 v).hgot = 2#2 := rfl
@[simp] theorem State.takeByte1_xsz (v : Byte) (s : State) : (s.takeByte1 v).xsz = extradataSize s.b0 := rfl
@[simp] theorem State.takeByte1_fsz (v : Byte) (s : State) : (s.takeByte1 v).fsz = framedataSize s.b0 v := rfl
@[simp] theorem State.takeByte1_psz (v : Byte) (s : State) : (s.takeByte1 v).psz = packetSize (extradataSize s.b0) (framedataSize s.b0 v) := rfl
@[simp] theorem State.takeByte1_got (v : Byte) (s : State) : (s.takeByte1 v).got = s.got := rfl
@[simp] theorem State.takeByte1_recv (v : Byte) (s : State) : (s.takeByte1 v).recv = s.recv := rfl
@[simp] theorem State.takeByte1_rxbuf (v : Byte) (s : State) : (s.takeByte1 v).rxbuf = s.rxbuf := rfl
@[simp] theorem State.takeByte1_status (v : Byte) (s : State) : (s.takeByte1 v).status = s.status := rfl
@[simp] theorem State.takeByte1_flags (v : Byte) (s : State) : (s.takeByte1 v).flags = s.flags := rfl
@[simp] theorem State.takeByte1_inp (v : Byte) (s : State) : (s.takeByte1 v).inp = s.inp := rfl
@[simp] theorem State.takeByte1_out (v : Byte) (s : State) : (s.takeByte1 v).out = s.out := rfl
@[simp] theorem State.takeByte1_draw (v : Byte) (s : State) : (s.takeByte1 v).draw = s.draw := rfl
@[simp] theorem State.takeByte1_host (v : Byte) (s : State) : (s.takeByte1 v).host = s.host := rfl

/-! ### `State.storePacket` -/

@[simp] theorem State.storePacket_cfg (r : List Byte) (s : State) : (s.storePacket r).cfg = s.cfg := rfl
@[simp] theorem State.storePacket_wcur (r : List Byte) (s : State) : (s.storePacket r).wcur = s.wcur := rfl
@[simp] theorem State.storePacket_obuf (r : List Byte) (s : State) : (s.storePacket r).obuf = s.obuf := rfl
@[simp] theorem State.storePacket_cfgbuf (r : List Byte) (s : State) : (s.storePacket r).cfgbuf = s.cfgbuf := rfl
@[simp] theorem State.storePacket_paybuf (r : List Byte) (s : State) : (s.storePacket r).paybuf = s.paybuf := rfl
@[simp] theorem State.storePacket_hdr (r : List Byte) (s : State) : (s.storePacket r).hdr = s.hdr := rfl
@[simp] theorem State.storePacket_wlen (r : List Byte) (s : State) : (s.storePacket r).wlen = s.wlen := rfl
@[simp] theorem State.storePacket_ph (r : List Byte) (s : State) : (s.storePacket r).ph = s.ph := rfl
@[simp] theorem State.storePacket_b0 (r : List Byte) (s : State) : (s.storePacket r).b0 = s.b0 := rfl
@[simp] theorem State.storePacket_b1 (r : List Byte) (s : State) : (s.storePacket r).b1 = s.b1 := rfl
@[simp] theorem State.storePacket_hgot (r : List Byte) (s : State) : (s.storePacket r).hgot = s.hgot := rfl
@[simp] theorem State.storePacket_xsz (r : List Byte) (s : State) : (s.storePacket r).xsz = s.xsz := rfl
@[simp] theorem State.storePacket_fsz (r : List Byte) (s : State) : (s.storePacket r).fsz = s.fsz := rfl
@[simp] theorem State.storePacket_psz (r : List Byte) (s : State) : (s.storePacket r).psz = s.psz := rfl
@[simp] theorem State.storePacket_got (r : List Byte) (s : State) : (s.storePacket r).got = BitVec.ofNat 11 r.length := rfl
@[simp] theorem State.storePacket_recv (r : List Byte) (s : State) : (s.storePacket r).recv = s.recv := rfl
@[simp] theorem State.storePacket_rxbuf (r : List Byte) (s : State) : (s.storePacket r).rxbuf = s.rxbuf.writeBytes 0 r := rfl
@[simp] theorem State.storePacket_status (r : List Byte) (s : State) : (s.storePacket r).status = s.status := rfl
@[simp] theorem State.storePacket_flags (r : List Byte) (s : State) : (s.storePacket r).flags = s.flags := rfl
@[simp] theorem State.storePacket_inp (r : List Byte) (s : State) : (s.storePacket r).inp = s.inp := rfl
@[simp] theorem State.storePacket_out (r : List Byte) (s : State) : (s.storePacket r).out = s.out := rfl
@[simp] theorem State.storePacket_draw (r : List Byte) (s : State) : (s.storePacket r).draw = s.draw := rfl
@[simp] theorem State.storePacket_host (r : List Byte) (s : State) : (s.storePacket r).host = s.host := rfl

/-! ### `State.storePacketByte` -/

@[simp] theorem State.storePacketByte_cfg (v : Byte) (s : State) : (s.storePacketByte v).cfg = s.cfg := rfl
@[simp] theorem State.storePacketByte_wcur (v : Byte) (s : State) : (s.storePacketByte v).wcur = s.wcur := rfl
@[simp] theorem State.storePacketByte_obuf (v : Byte) (s : State) : (s.storePacketByte v).obuf = s.obuf := rfl
@[simp] theorem State.storePacketByte_cfgbuf (v : Byte) (s : State) : (s.storePacketByte v).cfgbuf = s.cfgbuf := rfl
@[simp] theorem State.storePacketByte_paybuf (v : Byte) (s : State) : (s.storePacketByte v).paybuf = s.paybuf := rfl
@[simp] theorem State.storePacketByte_hdr (v : Byte) (s : State) : (s.storePacketByte v).hdr = s.hdr := rfl
@[simp] theorem State.storePacketByte_wlen (v : Byte) (s : State) : (s.storePacketByte v).wlen = s.wlen := rfl
@[simp] theorem State.storePacketByte_ph (v : Byte) (s : State) : (s.storePacketByte v).ph = s.ph := rfl
@[simp] theorem State.storePacketByte_b0 (v : Byte) (s : State) : (s.storePacketByte v).b0 = s.b0 := rfl
@[simp] theorem State.storePacketByte_b1 (v : Byte) (s : State) : (s.storePacketByte v).b1 = s.b1 := rfl
@[simp] theorem State.storePacketByte_hgot (v : Byte) (s : State) : (s.storePacketByte v).hgot = s.hgot := rfl
@[simp] theorem State.storePacketByte_xsz (v : Byte) (s : State) : (s.storePacketByte v).xsz = s.xsz := rfl
@[simp] theorem State.storePacketByte_fsz (v : Byte) (s : State) : (s.storePacketByte v).fsz = s.fsz := rfl
@[simp] theorem State.storePacketByte_psz (v : Byte) (s : State) : (s.storePacketByte v).psz = s.psz := rfl
@[simp] theorem State.storePacketByte_got (v : Byte) (s : State) : (s.storePacketByte v).got = s.got + 1#11 := rfl
@[simp] theorem State.storePacketByte_recv (v : Byte) (s : State) : (s.storePacketByte v).recv = s.recv := rfl
@[simp] theorem State.storePacketByte_rxbuf (v : Byte) (s : State) : (s.storePacketByte v).rxbuf = s.rxbuf.write s.got.toNat v := rfl
@[simp] theorem State.storePacketByte_status (v : Byte) (s : State) : (s.storePacketByte v).status = s.status := rfl
@[simp] theorem State.storePacketByte_flags (v : Byte) (s : State) : (s.storePacketByte v).flags = s.flags := rfl
@[simp] theorem State.storePacketByte_inp (v : Byte) (s : State) : (s.storePacketByte v).inp = s.inp := rfl
@[simp] theorem State.storePacketByte_out (v : Byte) (s : State) : (s.storePacketByte v).out = s.out := rfl
@[simp] theorem State.storePacketByte_draw (v : Byte) (s : State) : (s.storePacketByte v).draw = s.draw := rfl
@[simp] theorem State.storePacketByte_host (v : Byte) (s : State) : (s.storePacketByte v).host = s.host := rfl

/-! ### `State.setPhase` -/

@[simp] theorem State.setPhase_cfg (p : Phase) (s : State) : (s.setPhase p).cfg = s.cfg := rfl
@[simp] theorem State.setPhase_wcur (p : Phase) (s : State) : (s.setPhase p).wcur = s.wcur := rfl
@[simp] theorem State.setPhase_obuf (p : Phase) (s : State) : (s.setPhase p).obuf = s.obuf := rfl
@[simp] theorem State.setPhase_cfgbuf (p : Phase) (s : State) : (s.setPhase p).cfgbuf = s.cfgbuf := rfl
@[simp] theorem State.setPhase_paybuf (p : Phase) (s : State) : (s.setPhase p).paybuf = s.paybuf := rfl
@[simp] theorem State.setPhase_hdr (p : Phase) (s : State) : (s.setPhase p).hdr = s.hdr := rfl
@[simp] theorem State.setPhase_wlen (p : Phase) (s : State) : (s.setPhase p).wlen = s.wlen := rfl
@[simp] theorem State.setPhase_ph (p : Phase) (s : State) : (s.setPhase p).ph = p := rfl
@[simp] theorem State.setPhase_b0 (p : Phase) (s : State) : (s.setPhase p).b0 = s.b0 := rfl
@[simp] theorem State.setPhase_b1 (p : Phase) (s : State) : (s.setPhase p).b1 = s.b1 := rfl
@[simp] theorem State.setPhase_hgot (p : Phase) (s : State) : (s.setPhase p).hgot = s.hgot := rfl
@[simp] theorem State.setPhase_xsz (p : Phase) (s : State) : (s.setPhase p).xsz = s.xsz := rfl
@[simp] theorem State.setPhase_fsz (p : Phase) (s : State) : (s.setPhase p).fsz = s.fsz := rfl
@[simp] theorem State.setPhase_psz (p : Phase) (s : State) : (s.setPhase p).psz = s.psz := rfl
@[simp] theorem State.setPhase_got (p : Phase) (s : State) : (s.setPhase p).got = s.got := rfl
@[simp] theorem State.setPhase_recv (p : Phase) (s : State) : (s.setPhase p).recv = s.recv := rfl
@[simp] theorem State.setPhase_rxbuf (p : Phase) (s : State) : (s.setPhase p).rxbuf = s.rxbuf := rfl
@[simp] theorem State.setPhase_status (p : Phase) (s : State) : (s.setPhase p).status = s.status := rfl
@[simp] theorem State.setPhase_flags (p : Phase) (s : State) : (s.setPhase p).flags = s.flags := rfl
@[simp] theorem State.setPhase_inp (p : Phase) (s : State) : (s.setPhase p).inp = s.inp := rfl
@[simp] theorem State.setPhase_out (p : Phase) (s : State) : (s.setPhase p).out = s.out := rfl
@[simp] theorem State.setPhase_draw (p : Phase) (s : State) : (s.setPhase p).draw = s.draw := rfl
@[simp] theorem State.setPhase_host (p : Phase) (s : State) : (s.setPhase p).host = s.host := rfl

/-! ### `State.deliver` -/

@[simp] theorem State.deliver_cfg (s : State) : (s.deliver).cfg = s.cfg := rfl
@[simp] theorem State.deliver_wcur (s : State) : (s.deliver).wcur = s.wcur := rfl
@[simp] theorem State.deliver_obuf (s : State) : (s.deliver).obuf = s.obuf := rfl
@[simp] theorem State.deliver_cfgbuf (s : State) : (s.deliver).cfgbuf = s.cfgbuf := rfl
@[simp] theorem State.deliver_paybuf (s : State) : (s.deliver).paybuf = s.paybuf := rfl
@[simp] theorem State.deliver_hdr (s : State) : (s.deliver).hdr = s.hdr := rfl
@[simp] theorem State.deliver_wlen (s : State) : (s.deliver).wlen = s.wlen := rfl
@[simp] theorem State.deliver_ph (s : State) : (s.deliver).ph = .hdr0 := rfl
@[simp] theorem State.deliver_b0 (s : State) : (s.deliver).b0 = s.b0 := rfl
@[simp] theorem State.deliver_b1 (s : State) : (s.deliver).b1 = s.b1 := rfl
@[simp] theorem State.deliver_hgot (s : State) : (s.deliver).hgot = s.hgot := rfl
@[simp] theorem State.deliver_xsz (s : State) : (s.deliver).xsz = s.xsz := rfl
@[simp] theorem State.deliver_fsz (s : State) : (s.deliver).fsz = s.fsz := rfl
@[simp] theorem State.deliver_psz (s : State) : (s.deliver).psz = s.psz := rfl
@[simp] theorem State.deliver_got (s : State) : (s.deliver).got = s.got := rfl
@[simp] theorem State.deliver_recv (s : State) : (s.deliver).recv = true := rfl
@[simp] theorem State.deliver_rxbuf (s : State) : (s.deliver).rxbuf = s.rxbuf := rfl
@[simp] theorem State.deliver_status (s : State) : (s.deliver).status = s.status := rfl
@[simp] theorem State.deliver_flags (s : State) : (s.deliver).flags = s.flags := rfl
@[simp] theorem State.deliver_inp (s : State) : (s.deliver).inp = s.inp := rfl
@[simp] theorem State.deliver_out (s : State) : (s.deliver).out = s.out := rfl
@[simp] theorem State.deliver_draw (s : State) : (s.deliver).draw = s.draw := rfl
@[simp] theorem State.deliver_host (s : State) : (s.deliver).host = s.host := rfl

/-! ### `State.setIn` -/

@[simp] theorem State.setIn_cfg (i : InStream) (s : State) : (s.setIn i).cfg = s.cfg := rfl
@[simp] theorem State.setIn_wcur (i : InStream) (s : State) : (s.setIn i).wcur = s.wcur := rfl
@[simp] theorem State.setIn_obuf (i : InStream) (s : State) : (s.setIn i).obuf = s.obuf := rfl
@[simp] theorem State.setIn_cfgbuf (i : InStream) (s : State) : (s.setIn i).cfgbuf = s.cfgbuf := rfl
@[simp] theorem State.setIn_paybuf (i : InStream) (s : State) : (s.setIn i).paybuf = s.paybuf := rfl
@[simp] theorem State.setIn_hdr (i : InStream) (s : State) : (s.setIn i).hdr = s.hdr := rfl
@[simp] theorem State.setIn_wlen (i : InStream) (s : State) : (s.setIn i).wlen = s.wlen := rfl
@[simp] theorem State.setIn_ph (i : InStream) (s : State) : (s.setIn i).ph = s.ph := rfl
@[simp] theorem State.setIn_b0 (i : InStream) (s : State) : (s.setIn i).b0 = s.b0 := rfl
@[simp] theorem State.setIn_b1 (i : InStream) (s : State) : (s.setIn i).b1 = s.b1 := rfl
@[simp] theorem State.setIn_hgot (i : InStream) (s : State) : (s.setIn i).hgot = s.hgot := rfl
@[simp] theorem State.setIn_xsz (i : InStream) (s : State) : (s.setIn i).xsz = s.xsz := rfl
@[simp] theorem State.setIn_fsz (i : InStream) (s : State) : (s.setIn i).fsz = s.fsz := rfl
@[simp] theorem State.setIn_psz (i : InStream) (s : State) : (s.setIn i).psz = s.psz := rfl
@[simp] theorem State.setIn_got (i : InStream) (s : State) : (s.setIn i).got = s.got := rfl
@[simp] theorem State.setIn_recv (i : InStream) (s : State) : (s.setIn i).recv = s.recv := rfl
@[simp] theorem State.setIn_rxbuf (i : InStream) (s : State) : (s.setIn i).rxbuf = s.rxbuf := rfl
@[simp] theorem State.setIn_status (i : InStream) (s : State) : (s.setIn i).status = s.status := rfl
@[simp] theorem State.setIn_flags (i : InStream) (s : State) : (s.setIn i).flags = s.flags := rfl
@[simp] theorem State.setIn_inp (i : InStream) (s : State) : (s.setIn i).inp = i := rfl
@[simp] theorem State.setIn_out (i : InStream) (s : State) : (s.setIn i).out = s.out := rfl
@[simp] theorem State.setIn_draw (i : InStream) (s : State) : (s.setIn i).draw = s.draw := rfl
@[simp] theorem State.setIn_host (i : InStream) (s : State) : (s.setIn i).host = s.host := rfl

/-! ### `State.setOut` -/

@[simp] theorem State.setOut_cfg (o : OutStream) (s : State) : (s.setOut o).cfg = s.cfg := rfl
@[simp] theorem State.setOut_wcur (o : OutStream) (s : State) : (s.setOut o).wcur = s.wcur := rfl
@[simp] theorem State.setOut_obuf (o : OutStream) (s : State) : (s.setOut o).obuf = s.obuf := rfl
@[simp] theorem State.setOut_cfgbuf (o : OutStream) (s : State) : (s.setOut o).cfgbuf = s.cfgbuf := rfl
@[simp] theorem State.setOut_paybuf (o : OutStream) (s : State) : (s.setOut o).paybuf = s.paybuf := rfl
@[simp] theorem State.setOut_hdr (o : OutStream) (s : State) : (s.setOut o).hdr = s.hdr := rfl
@[simp] theorem State.setOut_wlen (o : OutStream) (s : State) : (s.setOut o).wlen = s.wlen := rfl
@[simp] theorem State.setOut_ph (o : OutStream) (s : State) : (s.setOut o).ph = s.ph := rfl
@[simp] theorem State.setOut_b0 (o : OutStream) (s : State) : (s.setOut o).b0 = s.b0 := rfl
@[simp] theorem State.setOut_b1 (o : OutStream) (s : State) : (s.setOut o).b1 = s.b1 := rfl
@[simp] theorem State.setOut_hgot (o : OutStream) (s : State) : (s.setOut o).hgot = s.hgot := rfl
@[simp] theorem State.setOut_xsz (o : OutStream) (s : State) : (s.setOut o).xsz = s.xsz := rfl
@[simp] theorem State.setOut_fsz (o : OutStream) (s : State) : (s.setOut o).fsz = s.fsz := rfl
@[simp] theorem State.setOut_psz (o : OutStream) (s : State) : (s.setOut o).psz = s.psz := rfl
@[simp] theorem State.setOut_got (o : OutStream) (s : State) : (s.setOut o).got = s.got := rfl
@[simp] theorem State.setOut_recv (o : OutStream) (s : State) : (s.setOut o).recv = s.recv := rfl
@[simp] theorem State.setOut_rxbuf (o : OutStream) (s : State) : (s.setOut o).rxbuf = s.rxbuf := rfl
@[simp] theorem State.setOut_status (o : OutStream) (s : State) : (s.setOut o).status = s.status := rfl
@[simp] theorem State.setOut_flags (o : OutStream) (s : State) : (s.setOut o).flags = s.flags := rfl
@[simp] theorem State.setOut_inp (o : OutStream) (s : State) : (s.setOut o).inp = s.inp := rfl
@[simp] theorem State.setOut_out (o : OutStream) (s : State) : (s.setOut o).out = o := rfl
@[simp] theorem State.setOut_draw (o : OutStream) (s : State) : (s.setOut o).draw = s.draw := rfl
@[simp] theorem State.setOut_host (o : OutStream) (s : State) : (s.setOut o).host = s.host := rfl

/-! ### `State.setHost` -/

@[simp] theorem State.setHost_cfg (h : List HostMove) (s : State) : (s.setHost h).cfg = s.cfg := rfl
@[simp] theorem State.setHost_wcur (h : List HostMove) (s : State) : (s.setHost h).wcur = s.wcur := rfl
@[simp] theorem State.setHost_obuf (h : List HostMove) (s : State) : (s.setHost h).obuf = s.obuf := rfl
@[simp] theorem State.setHost_cfgbuf (h : List HostMove) (s : State) : (s.setHost h).cfgbuf = s.cfgbuf := rfl
@[simp] theorem State.setHost_paybuf (h : List HostMove) (s : State) : (s.setHost h).paybuf = s.paybuf := rfl
@[simp] theorem State.setHost_hdr (h : List HostMove) (s : State) : (s.setHost h).hdr = s.hdr := rfl
@[simp] theorem State.setHost_wlen (h : List HostMove) (s : State) : (s.setHost h).wlen = s.wlen := rfl
@[simp] theorem State.setHost_ph (h : List HostMove) (s : State) : (s.setHost h).ph = s.ph := rfl
@[simp] theorem State.setHost_b0 (h : List HostMove) (s : State) : (s.setHost h).b0 = s.b0 := rfl
@[simp] theorem State.setHost_b1 (h : List HostMove) (s : State) : (s.setHost h).b1 = s.b1 := rfl
@[simp] theorem State.setHost_hgot (h : List HostMove) (s : State) : (s.setHost h).hgot = s.hgot := rfl
@[simp] theorem State.setHost_xsz (h : List HostMove) (s : State) : (s.setHost h).xsz = s.xsz := rfl
@[simp] theorem State.setHost_fsz (h : List HostMove) (s : State) : (s.setHost h).fsz = s.fsz := rfl
@[simp] theorem State.setHost_psz (h : List HostMove) (s : State) : (s.setHost h).psz = s.psz := rfl
@[simp] theorem State.setHost_got (h : List HostMove) (s : State) : (s.setHost h).got = s.got := rfl
@[simp] theorem State.setHost_recv (h : List HostMove) (s : State) : (s.setHost h).recv = s.recv := rfl
@[simp] theorem State.setHost_rxbuf (h : List HostMove) (s : State) : (s.setHost h).rxbuf = s.rxbuf := rfl
@[simp] theorem State.setHost_status (h : List HostMove) (s : State) : (s.setHost h).status = s.status := rfl
@[simp] theorem State.setHost_flags (h : List HostMove) (s : State) : (s.setHost h).flags = s.flags := rfl
@[simp] theorem State.setHost_inp (h : List HostMove) (s : State) : (s.setHost h).inp = s.inp := rfl
@[simp] theorem State.setHost_out (h : List HostMove) (s : State) : (s.setHost h).out = s.out := rfl
@[simp] theorem State.setHost_draw (h : List HostMove) (s : State) : (s.setHost h).draw = s.draw := rfl
@[simp] theorem State.setHost_host (h : List HostMove) (s : State) : (s.setHost h).host = h := rfl

/-! ### `State.loadSource` -/

@[simp] theorem State.loadSource_cfg (src : Source) (a : Nat) (v : Byte) (s : State) : (s.loadSource src a v).cfg = s.cfg := rfl
@[simp] theorem State.loadSource_wcur (src : Source) (a : Nat) (v : Byte) (s : State) : (s.loadSource src a v).wcur = s.wcur := rfl
@[simp] theorem State.loadSource_obuf (src : Source) (a : Nat) (v : Byte) (s : State) : (s.loadSource src a v).obuf = s.obuf := rfl
@[simp] theorem State.loadSource_cfgbuf (src : Source) (a : Nat) (v : Byte) (s : State) : (s.loadSource src a v).cfgbuf = (match src with | .cfg => s.cfgbuf.write a v | .pay => s.cfgbuf) := rfl
@[simp] theorem State.loadSource_paybuf (src : Source) (a : Nat) (v : Byte) (s : State) : (s.loadSource src a v).paybuf = (match src with | .cfg => s.paybuf | .pay => s.paybuf.write a v) := rfl
@[simp] theorem State.loadSource_hdr (src : Source) (a : Nat) (v : Byte) (s : State) : (s.loadSource src a v).hdr = s.hdr := rfl
@[simp] theorem State.loadSource_wlen (src : Source) (a : Nat) (v : Byte) (s : State) : (s.loadSource src a v).wlen = s.wlen := rfl
@[simp] theorem State.loadSource_ph (src : Source) (a : Nat) (v : Byte) (s : State) : (s.loadSource src a v).ph = s.ph := rfl
@[simp] theorem State.loadSource_b0 (src : Source) (a : Nat) (v : Byte) (s : State) : (s.loadSource src a v).b0 = s.b0 := rfl
@[simp] theorem State.loadSource_b1 (src : Source) (a : Nat) (v : Byte) (s : State) : (s.loadSource src a v).b1 = s.b1 := rfl
@[simp] theorem State.loadSource_hgot (src : Source) (a : Nat) (v : Byte) (s : State) : (s.loadSource src a v).hgot = s.hgot := rfl
@[simp] theorem State.loadSource_xsz (src : Source) (a : Nat) (v : Byte) (s : State) : (s.loadSource src a v).xsz = s.xsz := rfl
@[simp] theorem State.loadSource_fsz (src : Source) (a : Nat) (v : Byte) (s : State) : (s.loadSource src a v).fsz = s.fsz := rfl
@[simp] theorem State.loadSource_psz (src : Source) (a : Nat) (v : Byte) (s : State) : (s.loadSource src a v).psz = s.psz := rfl
@[simp] theorem State.loadSource_got (src : Source) (a : Nat) (v : Byte) (s : State) : (s.loadSource src a v).got = s.got := rfl
@[simp] theorem State.loadSource_recv (src : Source) (a : Nat) (v : Byte) (s : State) : (s.loadSource src a v).recv = s.recv := rfl
@[simp] theorem State.loadSource_rxbuf (src : Source) (a : Nat) (v : Byte) (s : State) : (s.loadSource src a v).rxbuf = s.rxbuf := rfl
@[simp] theorem State.loadSource_status (src : Source) (a : Nat) (v : Byte) (s : State) : (s.loadSource src a v).status = s.status := rfl
@[simp] theorem State.loadSource_flags (src : Source) (a : Nat) (v : Byte) (s : State) : (s.loadSource src a v).flags = s.flags := rfl
@[simp] theorem State.loadSource_inp (src : Source) (a : Nat) (v : Byte) (s : State) : (s.loadSource src a v).inp = s.inp := rfl
@[simp] theorem State.loadSource_out (src : Source) (a : Nat) (v : Byte) (s : State) : (s.loadSource src a v).out = s.out := rfl
@[simp] theorem State.loadSource_draw (src : Source) (a : Nat) (v : Byte) (s : State) : (s.loadSource src a v).draw = s.draw := rfl
@[simp] theorem State.loadSource_host (src : Source) (a : Nat) (v : Byte) (s : State) : (s.loadSource src a v).host = s.host := rfl

/-! ### `State.finish` -/

@[simp] theorem State.finish_cfg (r : Status) (s : State) : (s.finish r).cfg = s.cfg := rfl
@[simp] theorem State.finish_wcur (r : Status) (s : State) : (s.finish r).wcur = s.wcur := rfl
@[simp] theorem State.finish_obuf (r : Status) (s : State) : (s.finish r).obuf = s.obuf := rfl
@[simp] theorem State.finish_cfgbuf (r : Status) (s : State) : (s.finish r).cfgbuf = s.cfgbuf := rfl
@[simp] theorem State.finish_paybuf (r : Status) (s : State) : (s.finish r).paybuf = s.paybuf := rfl
@[simp] theorem State.finish_hdr (r : Status) (s : State) : (s.finish r).hdr = s.hdr := rfl
@[simp] theorem State.finish_wlen (r : Status) (s : State) : (s.finish r).wlen = s.wlen := rfl
@[simp] theorem State.finish_ph (r : Status) (s : State) : (s.finish r).ph = r.phaseAfter s.ph := rfl
@[simp] theorem State.finish_b0 (r : Status) (s : State) : (s.finish r).b0 = s.b0 := rfl
@[simp] theorem State.finish_b1 (r : Status) (s : State) : (s.finish r).b1 = s.b1 := rfl
@[simp] theorem State.finish_hgot (r : Status) (s : State) : (s.finish r).hgot = s.hgot := rfl
@[simp] theorem State.finish_xsz (r : Status) (s : State) : (s.finish r).xsz = s.xsz := rfl
@[simp] theorem State.finish_fsz (r : Status) (s : State) : (s.finish r).fsz = s.fsz := rfl
@[simp] theorem State.finish_psz (r : Status) (s : State) : (s.finish r).psz = s.psz := rfl
@[simp] theorem State.finish_got (r : Status) (s : State) : (s.finish r).got = s.got := rfl
@[simp] theorem State.finish_recv (r : Status) (s : State) : (s.finish r).recv = s.recv := rfl
@[simp] theorem State.finish_rxbuf (r : Status) (s : State) : (s.finish r).rxbuf = s.rxbuf := rfl
@[simp] theorem State.finish_status (r : Status) (s : State) : (s.finish r).status = r := rfl
@[simp] theorem State.finish_flags (r : Status) (s : State) : (s.finish r).flags = s.flags ||| r.flagMask := rfl
@[simp] theorem State.finish_inp (r : Status) (s : State) : (s.finish r).inp = s.inp := rfl
@[simp] theorem State.finish_out (r : Status) (s : State) : (s.finish r).out = s.out := rfl
@[simp] theorem State.finish_draw (r : Status) (s : State) : (s.finish r).draw = s.draw := rfl
@[simp] theorem State.finish_host (r : Status) (s : State) : (s.finish r).host = s.host := rfl

/-! ### `State.resetBlock` -/

@[simp] theorem State.resetBlock_cfg (s : State) : (s.resetBlock).cfg = s.cfg := rfl
@[simp] theorem State.resetBlock_wcur (s : State) : (s.resetBlock).wcur = 0 := rfl
@[simp] theorem State.resetBlock_obuf (s : State) : (s.resetBlock).obuf = [] := rfl
@[simp] theorem State.resetBlock_cfgbuf (s : State) : (s.resetBlock).cfgbuf = [] := rfl
@[simp] theorem State.resetBlock_paybuf (s : State) : (s.resetBlock).paybuf = [] := rfl
@[simp] theorem State.resetBlock_hdr (s : State) : (s.resetBlock).hdr = 0#16 := rfl
@[simp] theorem State.resetBlock_wlen (s : State) : (s.resetBlock).wlen = 0 := rfl
@[simp] theorem State.resetBlock_ph (s : State) : (s.resetBlock).ph = .hdr0 := rfl
@[simp] theorem State.resetBlock_b0 (s : State) : (s.resetBlock).b0 = 0#8 := rfl
@[simp] theorem State.resetBlock_b1 (s : State) : (s.resetBlock).b1 = 0#8 := rfl
@[simp] theorem State.resetBlock_hgot (s : State) : (s.resetBlock).hgot = 0#2 := rfl
@[simp] theorem State.resetBlock_xsz (s : State) : (s.resetBlock).xsz = 0#6 := rfl
@[simp] theorem State.resetBlock_fsz (s : State) : (s.resetBlock).fsz = 0#10 := rfl
@[simp] theorem State.resetBlock_psz (s : State) : (s.resetBlock).psz = 0#11 := rfl
@[simp] theorem State.resetBlock_got (s : State) : (s.resetBlock).got = 0#11 := rfl
@[simp] theorem State.resetBlock_recv (s : State) : (s.resetBlock).recv = false := rfl
@[simp] theorem State.resetBlock_rxbuf (s : State) : (s.resetBlock).rxbuf = [] := rfl
@[simp] theorem State.resetBlock_status (s : State) : (s.resetBlock).status = .ok := rfl
@[simp] theorem State.resetBlock_flags (s : State) : (s.resetBlock).flags = 0#6 := rfl
@[simp] theorem State.resetBlock_inp (s : State) : (s.resetBlock).inp = s.inp := rfl
@[simp] theorem State.resetBlock_out (s : State) : (s.resetBlock).out = s.out := rfl
@[simp] theorem State.resetBlock_draw (s : State) : (s.resetBlock).draw = s.draw + 1 := rfl
@[simp] theorem State.resetBlock_host (s : State) : (s.resetBlock).host = s.host := rfl

/-! ### The parts of a result -/

@[simp] theorem Status.flagMask_ok : Status.ok.flagMask = 0#6 := rfl
@[simp] theorem Status.flagMask_eos : Status.eos.flagMask = 1#6 := rfl
@[simp] theorem Status.flagMask_eTruncated : Status.eTruncated.flagMask = 2#6 := rfl
@[simp] theorem Status.flagMask_eFieldTooLarge : Status.eFieldTooLarge.flagMask = 4#6 := rfl
@[simp] theorem Status.flagMask_eOverflow : Status.eOverflow.flagMask = 8#6 := rfl
@[simp] theorem Status.flagMask_eValueRange : Status.eValueRange.flagMask = 16#6 := rfl
@[simp] theorem Status.flagMask_eIllegal : Status.eIllegal.flagMask = 32#6 := rfl
@[simp] theorem Status.phaseAfter_ok (p : Phase) : Status.ok.phaseAfter p = p := rfl
@[simp] theorem Status.phaseAfter_eos (p : Phase) : Status.eos.phaseAfter p = .done := rfl
@[simp] theorem Status.phaseAfter_eTruncated (p : Phase) : Status.eTruncated.phaseAfter p = .error := rfl
@[simp] theorem Status.phaseAfter_eFieldTooLarge (p : Phase) : Status.eFieldTooLarge.phaseAfter p = p := rfl
@[simp] theorem Status.phaseAfter_eOverflow (p : Phase) : Status.eOverflow.phaseAfter p = p := rfl
@[simp] theorem Status.phaseAfter_eValueRange (p : Phase) : Status.eValueRange.phaseAfter p = p := rfl
@[simp] theorem Status.phaseAfter_eIllegal (p : Phase) : Status.eIllegal.phaseAfter p = p := rfl
@[simp] theorem State.mem_obuf (s : State) : s.mem .obuf = s.obuf := rfl
@[simp] theorem State.mem_cfgbuf (s : State) : s.mem .cfgbuf = s.cfgbuf := rfl
@[simp] theorem State.mem_paybuf (s : State) : s.mem .paybuf = s.paybuf := rfl
@[simp] theorem State.mem_rxbuf (s : State) : s.mem .rxbuf = s.rxbuf := rfl
@[simp] theorem OutStream.bytes_mk (us : List (List Byte)) (k : Option Nat) :
    (OutStream.mk us k).bytes = us.flatten := rfl

/-- An operation that ends OK changes STATUS and nothing else at its end. -/
theorem State.finish_ok (s : State) : s.finish .ok = { s with status := .ok } := by
  simp [State.finish]

/-- Two states with the same fields are the same; used through the field lemmas above. -/
theorem State.ext_fields (s t : State) (h1 : s.cfg = t.cfg) (h2 : s.wcur = t.wcur) (h3 : s.obuf = t.obuf)
    (h4 : s.cfgbuf = t.cfgbuf) (h5 : s.paybuf = t.paybuf) (h6 : s.hdr = t.hdr) (h7 : s.wlen = t.wlen)
    (h8 : s.ph = t.ph) (h9 : s.b0 = t.b0) (h10 : s.b1 = t.b1) (h11 : s.hgot = t.hgot) (h12 : s.xsz = t.xsz)
    (h13 : s.fsz = t.fsz) (h14 : s.psz = t.psz) (h15 : s.got = t.got) (h16 : s.recv = t.recv)
    (h17 : s.rxbuf = t.rxbuf) (h18 : s.status = t.status) (h19 : s.flags = t.flags) (h20 : s.inp = t.inp)
    (h21 : s.out = t.out) (h22 : s.draw = t.draw) (h23 : s.host = t.host) : s = t := by
  rcases s with ⟨⟨⟩⟩; rcases t with ⟨⟨⟩⟩; simp_all

end Sys2Proof.Machine
end

