-- ==== Sys2Proof/Laws/Memory.lean ====
section
/-! SUPPORT. The laws of buffers: a read after a write, what a write leaves alone, and that every operation keeps the
canonical form and the bound. -/

namespace Sys2Proof.Machine

@[simp] theorem Memory.read?_nil (a : Nat) : Memory.read? ([] : Memory) a = none := rfl

theorem Memory.read?_cons (c : Host.Cell) (m : Memory) (a : Nat) :
    Memory.read? (c :: m) a = if a = c.1 then some c.2 else Memory.read? m a := rfl

theorem Memory.write_cons_lt (c : Host.Cell) (m : Memory) (a : Nat) (v : Byte) (h : a < c.1) :
    Memory.write (c :: m) a v = (a, v) :: c :: m := by simp [Memory.write, h]

theorem Memory.write_cons_same (c : Host.Cell) (m : Memory) (v : Byte) :
    Memory.write (c :: m) c.1 v = (c.1, v) :: m := by simp [Memory.write]

theorem Memory.write_cons_gt (c : Host.Cell) (m : Memory) (a : Nat) (v : Byte) (h : c.1 < a) :
    Memory.write (c :: m) a v = c :: m.write a v := by
  simp [Memory.write, Nat.not_lt.2 (Nat.le_of_lt h), Nat.ne_of_gt h]

/-- A read after a write: the value at the address written, and the old value at every other one. -/
theorem Memory.read?_write (m : Memory) (a x : Nat) (v : Byte) :
    (m.write a v).read? x = if x = a then some v else m.read? x := by
  induction m with
  | nil => rfl
  | cons c m ih =>
    rcases Nat.lt_trichotomy a c.1 with h | h | h
    · simp only [Memory.write_cons_lt c m a v h, Memory.read?_cons]
    · subst h
      simp only [Memory.write_cons_same, Memory.read?_cons]
      by_cases hx : x = c.1 <;> simp [hx]
    · simp only [Memory.write_cons_gt c m a v h, Memory.read?_cons, ih]
      by_cases hx : x = c.1
      · simp [hx, Nat.ne_of_lt h]
      · simp [hx]

theorem Memory.read?_write_same (m : Memory) (a : Nat) (v : Byte) : (m.write a v).read? a = some v := by
  simp [Memory.read?_write]

theorem Memory.read?_write_other (m : Memory) {a x : Nat} (v : Byte) (h : x ≠ a) :
    (m.write a v).read? x = m.read? x := by
  simp [Memory.read?_write, h]

@[simp] theorem Memory.writeBytes_nil (m : Memory) (a : Nat) : m.writeBytes a [] = m := rfl

theorem Memory.writeBytes_cons (m : Memory) (a : Nat) (v : Byte) (vs : List Byte) :
    m.writeBytes a (v :: vs) = (m.write a v).writeBytes (a + 1) vs := rfl

/-- Below and above the bytes written, a buffer reads as before. -/
theorem Memory.read?_writeBytes_outside (m : Memory) (a x : Nat) (vs : List Byte)
    (h : x < a ∨ a + vs.length ≤ x) : (m.writeBytes a vs).read? x = m.read? x := by
  induction vs generalizing m a with
  | nil => rfl
  | cons v vs ih =>
    simp only [List.length_cons] at h
    rw [Memory.writeBytes_cons, ih _ _ (by omega), Memory.read?_write_other]
    omega

/-- Byte `j` of what is written stands at address `a + j`. -/
theorem Memory.read?_writeBytes_inside (m : Memory) (a j : Nat) (vs : List Byte) (h : j < vs.length) :
    (m.writeBytes a vs).read? (a + j) = vs[j]? := by
  induction vs generalizing m a j with
  | nil => simp at h
  | cons v vs ih =>
    rw [Memory.writeBytes_cons]
    cases j with
    | zero =>
      rw [Memory.read?_writeBytes_outside _ _ _ _ (by omega)]
      simp [Memory.read?_write_same]
    | succ j =>
      have := ih (m.write a v) (a + 1) j (by simpa using h)
      rw [show a + (j + 1) = a + 1 + j by omega, this]
      simp

/-- Both cases in one: what an address reads as after consecutive bytes are written. -/
theorem Memory.read?_writeBytes (m : Memory) (a x : Nat) (vs : List Byte) :
    (m.writeBytes a vs).read? x = if a ≤ x ∧ x < a + vs.length then vs[x - a]? else m.read? x := by
  split
  · rename_i h
    have := Memory.read?_writeBytes_inside m a (x - a) vs (by omega)
    rwa [show a + (x - a) = x by omega] at this
  · rename_i h
    exact Memory.read?_writeBytes_outside m a x vs (by omega)

theorem Memory.writeBytes_append (m : Memory) (a : Nat) (us vs : List Byte) :
    m.writeBytes a (us ++ vs) = (m.writeBytes a us).writeBytes (a + us.length) vs := by
  induction us generalizing m a with
  | nil => simp
  | cons u us ih =>
    simp only [List.cons_append, Memory.writeBytes_cons, List.length_cons]
    rw [ih, show a + 1 + us.length = a + (us.length + 1) by omega]

/-! ### The canonical form -/

theorem Memory.wf_cons (c : Host.Cell) (m : Memory) :
    Memory.wf (c :: m) = true ↔ (∀ d, m.head? = some d → c.1 < d.1) ∧ m.wf = true := by
  cases m with
  | nil => simp [Memory.wf]
  | cons d m => simp [Memory.wf]

theorem Memory.head?_write (m : Memory) (a : Nat) (v : Byte) (d : Host.Cell)
    (h : (m.write a v).head? = some d) : d.1 = a ∨ m.head? = some d := by
  cases m with
  | nil => simp [Memory.write] at h; exact .inl (by simp [← h])
  | cons c m =>
    rcases Nat.lt_trichotomy a c.1 with h1 | h1 | h1
    · rw [Memory.write_cons_lt c m a v h1] at h; exact .inl (by simp at h; simp [← h])
    · subst h1; rw [Memory.write_cons_same] at h; exact .inl (by simp at h; simp [← h])
    · rw [Memory.write_cons_gt c m a v h1] at h; exact .inr (by simpa using h)

/-- A write keeps the addresses strictly rising. -/
theorem Memory.write_wf (m : Memory) (a : Nat) (v : Byte) (h : m.wf = true) : (m.write a v).wf = true := by
  induction m with
  | nil => rfl
  | cons c m ih =>
    obtain ⟨hc, hm⟩ := (Memory.wf_cons c m).1 h
    rcases Nat.lt_trichotomy a c.1 with h1 | h1 | h1
    · rw [Memory.write_cons_lt c m a v h1]
      exact (Memory.wf_cons _ _).2 ⟨by intro d hd; simp at hd; simpa [← hd] using h1, h⟩
    · subst h1
      rw [Memory.write_cons_same]
      exact (Memory.wf_cons _ _).2 ⟨by simpa using hc, hm⟩
    · rw [Memory.write_cons_gt c m a v h1]
      refine (Memory.wf_cons _ _).2 ⟨?_, ih hm⟩
      intro d hd
      rcases Memory.head?_write m a v d hd with e | e
      · omega
      · exact hc d e

theorem Memory.writeBytes_wf (m : Memory) (a : Nat) (vs : List Byte) (h : m.wf = true) :
    (m.writeBytes a vs).wf = true := by
  induction vs generalizing m a with
  | nil => exact h
  | cons v vs ih => exact ih _ _ (Memory.write_wf m a v h)

@[simp] theorem Memory.within_nil (cap : Nat) : Memory.within cap [] = true := rfl

theorem Memory.within_cons (cap : Nat) (c : Host.Cell) (m : Memory) :
    Memory.within cap (c :: m) = true ↔ c.1 < cap ∧ m.within cap = true := by
  simp [Memory.within, List.all_cons]

/-- A write below the capacity keeps everything below the capacity. -/
theorem Memory.write_within (cap : Nat) (m : Memory) (a : Nat) (v : Byte) (h : m.within cap = true)
    (ha : a < cap) : (m.write a v).within cap = true := by
  induction m with
  | nil => simpa [Memory.write, Memory.within] using ha
  | cons c m ih =>
    obtain ⟨hc, hm⟩ := (Memory.within_cons ..).1 h
    rcases Nat.lt_trichotomy a c.1 with h1 | h1 | h1
    · rw [Memory.write_cons_lt c m a v h1]
      exact (Memory.within_cons ..).2 ⟨ha, (Memory.within_cons ..).2 ⟨hc, hm⟩⟩
    · subst h1
      rw [Memory.write_cons_same]
      exact (Memory.within_cons ..).2 ⟨hc, hm⟩
    · rw [Memory.write_cons_gt c m a v h1]
      exact (Memory.within_cons ..).2 ⟨hc, ih hm⟩

theorem Memory.writeBytes_within (cap : Nat) (m : Memory) (a : Nat) (vs : List Byte)
    (h : m.within cap = true) (ha : a + vs.length ≤ cap) : (m.writeBytes a vs).within cap = true := by
  induction vs generalizing m a with
  | nil => exact h
  | cons v vs ih =>
    simp only [List.length_cons] at ha
    exact ih _ _ (Memory.write_within cap m a v h (by omega)) (by omega)

/-- An address at or above the bound of a bounded buffer was never written. -/
theorem Memory.read?_of_within (cap : Nat) (m : Memory) (a : Nat) (h : m.within cap = true) (ha : cap ≤ a) :
    m.read? a = none := by
  induction m with
  | nil => rfl
  | cons c m ih =>
    obtain ⟨hc, hm⟩ := (Memory.within_cons ..).1 h
    rw [Memory.read?_cons, if_neg (by omega), ih hm]

/-- A listed address of a canonical buffer lies above its first one. -/
theorem Memory.lt_of_read?_isSome (c : Host.Cell) (m : Memory) (x : Nat) (h : Memory.wf (c :: m) = true)
    (hx : (m.read? x).isSome = true) : c.1 < x := by
  induction m generalizing c with
  | nil => simp at hx
  | cons d m ih =>
    obtain ⟨hc, hm⟩ := (Memory.wf_cons c (d :: m)).1 h
    have hcd : c.1 < d.1 := hc d rfl
    rw [Memory.read?_cons] at hx
    split at hx
    · omega
    · exact Nat.lt_trans hcd (ih d hm hx)

/-- The first entry of a canonical buffer reads as itself and stands nowhere else. -/
theorem Memory.read?_head_none (c : Host.Cell) (m : Memory) (x : Nat) (h : Memory.wf (c :: m) = true)
    (hx : x ≤ c.1) : m.read? x = none := by
  cases e : m.read? x with
  | none => rfl
  | some v => exact absurd (Memory.lt_of_read?_isSome c m x h (by simp [e])) (by omega)

/-- The canonical form is canonical: two buffers that read alike everywhere are equal data. -/
theorem Memory.eq_of_read? (m n : Memory) (hm : m.wf = true) (hn : n.wf = true)
    (h : ∀ x, m.read? x = n.read? x) : m = n := by
  induction m generalizing n with
  | nil =>
    cases n with
    | nil => rfl
    | cons d n => have := h d.1; simp [Memory.read?_cons] at this
  | cons c m ih =>
    cases n with
    | nil => have := h c.1; simp [Memory.read?_cons] at this
    | cons d n =>
      have hcd : c.1 = d.1 := by
        have h1 := h c.1
        have h2 := h d.1
        simp only [Memory.read?_cons, if_true] at h1 h2
        by_contra hne
        rw [if_neg hne] at h1
        rw [if_neg (Ne.symm hne)] at h2
        have a1 := Memory.lt_of_read?_isSome d n c.1 hn (by simp [← h1])
        have a2 := Memory.lt_of_read?_isSome c m d.1 hm (by simp [h2])
        omega
      have hv : c.2 = d.2 := by
        have h1 := h c.1
        simpa [Memory.read?_cons, hcd] using h1
      have hcd' : c = d := Prod.ext hcd hv
      subst hcd'
      congr 1
      refine ih n ((Memory.wf_cons c m).1 hm).2 ((Memory.wf_cons c n).1 hn).2 fun x => ?_
      have hx := h x
      simp only [Memory.read?_cons] at hx
      by_cases e : x = c.1
      · rw [Memory.read?_head_none c m x hm (by omega), Memory.read?_head_none c n x hn (by omega)]
      · simpa [e] using hx

/-! ### Reading a buffer through the state -/

@[simp] theorem State.readBytes_zero (s : State) (b : Buf) (a : Nat) : s.readBytes b a 0 = [] := rfl

theorem State.readBytes_succ (s : State) (b : Buf) (a n : Nat) :
    s.readBytes b a (n + 1) = s.byteAt b a :: s.readBytes b (a + 1) n := rfl

@[simp] theorem State.length_readBytes (s : State) (b : Buf) (a n : Nat) : (s.readBytes b a n).length = n := by
  induction n generalizing a with
  | zero => rfl
  | succ n ih => simp [State.readBytes_succ, ih]

/-- Byte `j` of a read is the byte at address `a + j`. -/
theorem State.getElem?_readBytes (s : State) (b : Buf) (a n j : Nat) (h : j < n) :
    (s.readBytes b a n)[j]? = some (s.byteAt b (a + j)) := by
  induction n generalizing a j with
  | zero => omega
  | succ n ih =>
    rw [State.readBytes_succ]
    cases j with
    | zero => simp
    | succ j => simp [ih (a + 1) j (by omega), Nat.add_comm, Nat.add_left_comm]

/-- A read depends on the bytes of its own range only. -/
theorem State.readBytes_congr (s t : State) (b b' : Buf) (a a' n : Nat)
    (h : ∀ j, j < n → s.byteAt b (a + j) = t.byteAt b' (a' + j)) : s.readBytes b a n = t.readBytes b' a' n := by
  induction n generalizing a a' with
  | zero => rfl
  | succ n ih =>
    rw [State.readBytes_succ, State.readBytes_succ]
    have h0 := h 0 (by omega)
    simp only [Nat.add_zero] at h0
    rw [h0, ih (a + 1) (a' + 1) fun j hj => ?_]
    have := h (j + 1) (by omega)
    rwa [show a + 1 + j = a + (j + 1) by omega, show a' + 1 + j = a' + (j + 1) by omega]

theorem State.readBytes_add (s : State) (b : Buf) (a n k : Nat) :
    s.readBytes b a (n + k) = s.readBytes b a n ++ s.readBytes b (a + n) k := by
  induction n generalizing a with
  | zero => simp
  | succ n ih =>
    rw [show n + 1 + k = (n + k) + 1 by omega, State.readBytes_succ, State.readBytes_succ, ih,
      show a + 1 + n = a + (n + 1) by omega, List.cons_append]

/-- What is read where a byte has been written is that byte. -/
theorem State.byteAt_of_read? (s : State) (b : Buf) (a : Nat) (v : Byte) (h : (s.mem b).read? a = some v) :
    s.byteAt b a = v := by
  simp [State.byteAt, h]

/-- Where nothing has been written the free byte of the draw is read (R44). -/
theorem State.byteAt_of_unwritten (s : State) (b : Buf) (a : Nat) (h : (s.mem b).read? a = none) :
    s.byteAt b a = Config.freeByte s.draw b a := by
  simp [State.byteAt, h]

/-- The byte read depends on the buffer and the draw only. -/
theorem State.byteAt_congr (s t : State) (b : Buf) (a : Nat) (hm : (s.mem b).read? a = (t.mem b).read? a)
    (hd : s.draw = t.draw) : s.byteAt b a = t.byteAt b a := by
  simp [State.byteAt, hm, hd]

/-- Reading back what was just stored. -/
theorem State.readBytes_of_read? (s : State) (b : Buf) (a : Nat) (vs : List Byte)
    (h : ∀ j, j < vs.length → (s.mem b).read? (a + j) = vs[j]?) : s.readBytes b a vs.length = vs := by
  apply List.ext_getElem?
  intro j
  by_cases hj : j < vs.length
  · rw [State.getElem?_readBytes _ _ _ _ _ hj]
    have := h j hj
    rw [List.getElem?_eq_getElem hj] at this ⊢
    rw [State.byteAt_of_read? s b (a + j) _ this]
  · rw [List.getElem?_eq_none (by simp; omega), List.getElem?_eq_none (by omega)]

theorem State.reset_buffers_wf :
    State.reset.obuf.wf = true ∧ State.reset.cfgbuf.wf = true ∧ State.reset.paybuf.wf = true ∧
      State.reset.rxbuf.wf = true := by decide

end Sys2Proof.Machine
end

