-- ==== Sys2Proof/Laws/Operands.lean ====
section
/-! SUPPORT. The operand and header arithmetic as plain arithmetic on natural numbers. -/

namespace Sys2Proof.Machine

@[simp] theorem length_bytesBE (k v : Nat) : (bytesBE k v).length = k := by
  induction k with
  | zero => rfl
  | succ k ih => simp [bytesBE, ih]

/-- Byte `j` of the big-endian form (R61). -/
theorem getElem?_bytesBE (k v j : Nat) (h : j < k) :
    (bytesBE k v)[j]? = some (BitVec.ofNat 8 (v / 2 ^ (8 * (k - 1 - j)))) := by
  induction k generalizing j with
  | zero => omega
  | succ k ih =>
    cases j with
    | zero => simp [bytesBE, Nat.shiftRight_eq_div_pow]
    | succ j =>
      simp only [bytesBE, List.getElem?_cons_succ]
      rw [ih j (by omega), show k + 1 - 1 - (j + 1) = k - 1 - j by omega]

theorem extradataSize_toNat (b0 : Byte) : (extradataSize b0).toNat = b0.toNat / 4 := by
  have := b0.isLt
  simp only [extradataSize, BitVec.toNat_ofNat, Nat.shiftRight_eq_div_pow]
  omega

theorem two_fields_or (hi lo k : Nat) (h : lo < 2 ^ k) : (hi <<< k) ||| lo = hi * 2 ^ k + lo := by
  rw [← Nat.shiftLeft_add_eq_or_of_lt h, Nat.shiftLeft_eq]

theorem framedataSize_toNat (b0 b1 : Byte) :
    (framedataSize b0 b1).toNat = b0.toNat % 4 * 256 + b1.toNat := by
  have h1 := b1.isLt
  have hm : b0.toNat &&& 3 = b0.toNat % 4 := Nat.and_two_pow_sub_one_eq_mod b0.toNat 2
  simp only [framedataSize, BitVec.toNat_ofNat]
  rw [hm, two_fields_or _ _ 8 (by simpa using h1)]
  omega

theorem packetSize_toNat (x : BitVec 6) (f : BitVec 10) : (packetSize x f).toNat = x.toNat + f.toNat := by
  have h1 := x.isLt
  have h2 := f.isLt
  simp only [packetSize, BitVec.toNat_ofNat]
  omega

/-- No header declares more than `PKT_MAX` packet bytes (R94). -/
theorem packetSize_le (x : BitVec 6) (f : BitVec 10) : (packetSize x f).toNat ≤ 1086 := by
  have h1 := x.isLt
  have h2 := f.isLt
  rw [packetSize_toNat]
  omega

theorem packHeader_toNat (c p : Nat) (hc : c ≤ 63) (hp : p ≤ 1023) : (packHeader c p).toNat = c * 1024 + p := by
  simp only [packHeader, BitVec.toNat_ofNat]
  rw [two_fields_or c p 10 (by omega)]
  omega

theorem sizesFit_iff (c p : Nat) : sizesFit c p = true ↔ c ≤ 63 ∧ p ≤ 1023 := by
  simp [sizesFit]

theorem headerByte0_toNat (h : BitVec 16) : (headerByte0 h).toNat = h.toNat / 256 := by
  have := h.isLt
  simp only [headerByte0, BitVec.extractLsb'_toNat, Nat.shiftRight_eq_div_pow]
  omega

theorem headerByte1_toNat (h : BitVec 16) : (headerByte1 h).toNat = h.toNat % 256 := by
  simp [headerByte1, BitVec.extractLsb'_toNat]

theorem headerWord_toNat (c p : Nat) (hc : c ≤ 63) (hp : p ≤ 1023) : (headerWord c p).toNat = c * 1024 + p := by
  simp only [headerWord, BitVec.toNat_append, BitVec.toNat_ofNat]
  rw [Nat.mod_eq_of_lt (by omega), Nat.mod_eq_of_lt (by omega), two_fields_or c p 10 (by omega)]
  norm_num

/-- The encoder's header word is the packer's header value (R93, R95). -/
theorem headerWord_eq_packHeader (c p : Nat) (hc : c ≤ 63) (hp : p ≤ 1023) : headerWord c p = packHeader c p := by
  apply BitVec.eq_of_toNat_eq
  rw [headerWord_toNat c p hc hp, packHeader_toNat c p hc hp]

theorem headerOfBytes_toNat (b0 b1 : Byte) : (headerOfBytes b0 b1).toNat = b0.toNat * 256 + b1.toNat := by
  simp only [headerOfBytes, BitVec.toNat_append]
  rw [two_fields_or _ _ 8 b1.isLt]
  norm_num

/-- A header word is its two bytes, and the two bytes of `b0, b1` as a header are b0 and b1 (R62). -/
theorem headerOfBytes_headerBytes (h : BitVec 16) : headerOfBytes (headerByte0 h) (headerByte1 h) = h := by
  apply BitVec.eq_of_toNat_eq
  rw [headerOfBytes_toNat, headerByte0_toNat, headerByte1_toNat]
  omega

theorem headerByte0_headerOfBytes (b0 b1 : Byte) : headerByte0 (headerOfBytes b0 b1) = b0 := by
  apply BitVec.eq_of_toNat_eq
  have := b1.isLt
  rw [headerByte0_toNat, headerOfBytes_toNat]
  omega

theorem headerByte1_headerOfBytes (b0 b1 : Byte) : headerByte1 (headerOfBytes b0 b1) = b1 := by
  apply BitVec.eq_of_toNat_eq
  have := b1.isLt
  rw [headerByte1_toNat, headerOfBytes_toNat]
  omega

/-- The decoder's configuration size is the parser's (R92, R95). -/
theorem extradataSize_headerByte0 (h : BitVec 16) :
    (extradataSize (headerByte0 h)).toNat = (h.extractLsb' 10 6).toNat := by
  have := h.isLt
  rw [extradataSize_toNat, headerByte0_toNat]
  simp only [BitVec.extractLsb'_toNat, Nat.shiftRight_eq_div_pow]
  omega

/-- The decoder's payload size is the parser's (R92, R95). -/
theorem framedataSize_headerBytes (h : BitVec 16) :
    (framedataSize (headerByte0 h) (headerByte1 h)).toNat = (h.extractLsb' 0 10).toNat := by
  have := h.isLt
  rw [framedataSize_toNat, headerByte0_toNat, headerByte1_toNat]
  simp only [BitVec.extractLsb'_toNat, Nat.shiftRight_zero]
  omega

end Sys2Proof.Machine
end

