-- ==== Sys2Proof/Laws/Ops.lean ====
section
/-! SUPPORT. One lemma for each shared operation that says everything it can do; the provers cite these and unfold no
operation. -/

namespace Sys2Proof.Machine

/-! ### The streams -/

/-- `InRead(n)` when there are `n` bytes (R68). -/
theorem inRead_of_enough (n : Nat) (s : State) (h : n ≤ s.inp.bytes.length) :
    inRead n s = some (s.inp.bytes.take n, s.setIn ⟨s.inp.bytes.drop n, s.inp.ending⟩) := by
  simp [inRead, h]

/-- `InRead(n)` when the stream ends first: everything that was left (R68). -/
theorem inRead_of_ended (n : Nat) (s : State) (h : s.inp.bytes.length < n) (he : s.inp.ending = .eos) :
    inRead n s = some (s.inp.bytes, s.setIn ⟨[], .eos⟩) := by
  simp [inRead, Nat.not_le.2 h, he]

/-- `InRead(n)` waits for ever exactly when too few bytes are left and the stream does not end (R221). -/
theorem inRead_eq_none_iff (n : Nat) (s : State) :
    inRead n s = none ↔ s.inp.bytes.length < n ∧ s.inp.ending = .never := by
  by_cases h : n ≤ s.inp.bytes.length
  · simp [inRead_of_enough n s h, Nat.not_lt.2 h]
  · cases he : s.inp.ending with
    | eos => simp [inRead_of_ended n s (Nat.not_le.1 h) he]
    | never => simp [inRead, h, he, Nat.not_le.1 h]

/-- Everything `InRead(n)` can answer (R68). -/
theorem inRead_cases {n : Nat} {s t : State} {r : List Byte} (h : inRead n s = some (r, t)) :
    (∃ rest, s.inp.bytes = r ++ rest ∧ r.length = n ∧ t = s.setIn ⟨rest, s.inp.ending⟩) ∨
      (s.inp.bytes = r ∧ r.length < n ∧ s.inp.ending = .eos ∧ t = s.setIn ⟨[], .eos⟩) := by
  by_cases hn : n ≤ s.inp.bytes.length
  · rw [inRead_of_enough n s hn] at h
    obtain ⟨rfl, rfl⟩ := Prod.mk.inj (Option.some.inj h)
    exact .inl ⟨_, (List.take_append_drop n _).symm, by simp [hn], rfl⟩
  · cases he : s.inp.ending with
    | eos =>
      rw [inRead_of_ended n s (Nat.not_le.1 hn) he] at h
      obtain ⟨rfl, rfl⟩ := Prod.mk.inj (Option.some.inj h)
      exact .inr ⟨rfl, Nat.not_le.1 hn, rfl, rfl⟩
    | never =>
      rw [(inRead_eq_none_iff n s).2 ⟨Nat.not_le.1 hn, he⟩] at h
      cases h

/-- `InRead(n)` of a stream that starts with `n` known bytes (R68). -/
theorem inRead_append (s : State) (r rest : List Byte) (h : s.inp.bytes = r ++ rest) :
    inRead r.length s = some (r, s.setIn ⟨rest, s.inp.ending⟩) := by
  rw [inRead_of_enough _ _ (by simp [h]), h]
  simp

theorem inNext_cons (s : State) (v : Byte) (rest : List Byte) (h : s.inp.bytes = v :: rest) :
    inNext s = some (.byte v, s.setIn ⟨rest, s.inp.ending⟩) := by
  simp [inNext, h]

theorem inNext_ended (s : State) (h : s.inp.bytes = []) (he : s.inp.ending = .eos) :
    inNext s = some (.eos, s) := by
  simp [inNext, h, he]

theorem inNext_waits (s : State) (h : s.inp.bytes = []) (he : s.inp.ending = .never) : inNext s = none := by
  simp [inNext, h, he]

/-- `OutAppend(u)` never answers where the sink takes too few bytes, and only there (R70, R221). -/
theorem outAppend_eq_none_iff (u : List Byte) (s : State) :
    outAppend u s = none ↔ ∃ k, s.out.accepts = some k ∧ k < u.length := by
  cases u with
  | nil => simp [outAppend]
  | cons v u =>
    cases h : s.out.accepts with
    | none => simp [outAppend, h]
    | some k =>
      by_cases hk : (v :: u).length ≤ k
      · have hk' : u.length + 1 ≤ k := by simpa using hk
        simp [outAppend, h, hk']
        omega
      · have hk' : ¬ u.length + 1 ≤ k := by simpa using hk
        simp [outAppend, h, hk']
        omega

/-- Everything `OutAppend(u)` can answer: OUT grows by u, as one unit unless u is empty, and nothing else changes
(R70). -/
theorem outAppend_cases {u : List Byte} {s t : State} (h : outAppend u s = some t) :
    (u = [] ∧ t = s) ∨
      (u ≠ [] ∧ ∃ acc, t = s.setOut ⟨s.out.units ++ [u], acc⟩ ∧
        acc = s.out.accepts.map (fun k => k - u.length) ∧ ∀ k, s.out.accepts = some k → u.length ≤ k) := by
  cases u with
  | nil => exact .inl ⟨rfl, by simpa [outAppend] using h.symm⟩
  | cons v u =>
    refine .inr ⟨by simp, ?_⟩
    cases ha : s.out.accepts with
    | none =>
      simp only [outAppend, ha] at h
      exact ⟨none, (Option.some.inj h).symm, rfl, by simp⟩
    | some k =>
      simp only [outAppend, ha] at h
      split at h
      · rename_i hk
        exact ⟨_, (Option.some.inj h).symm, rfl, fun k' e => by cases e; exact hk⟩
      · cases h

/-- The bytes of OUT after an append (R70). -/
theorem outAppend_bytes {u : List Byte} {s t : State} (h : outAppend u s = some t) :
    t.out.bytes = s.out.bytes ++ u := by
  rcases outAppend_cases h with ⟨rfl, rfl⟩ | ⟨-, acc, rfl, -, -⟩
  · simp
  · simp [OutStream.bytes]

/-! ### The shared shape of the writes -/

/-- A write that does not fit (R120). -/
theorem writeAtCursor_overflow (bs : List Byte) (s : State) (h : s.cfg.obufCap < s.wcur + bs.length) :
    writeAtCursor bs s = s.finish .eOverflow := by
  simp [writeAtCursor, h]

/-- A write that fits (R120). -/
theorem writeAtCursor_fits (bs : List Byte) (s : State) (h : s.wcur + bs.length ≤ s.cfg.obufCap) :
    writeAtCursor bs s = ((s.storeObuf s.wcur bs).setCursor (s.wcur + bs.length)).finish .ok := by
  simp [writeAtCursor, Nat.not_lt.2 h]

/-- Everything FLUSH and SER can end in once their bytes are in OBUF (R127, R171). -/
theorem appendUnit_cases (n : Nat) (s : State) :
    (∃ t, outAppend (s.readBytes .obuf 0 n) s = some t ∧ appendUnit n s = .next ((t.committed n).finish .ok)) ∨
      (outAppend (s.readBytes .obuf 0 n) s = none ∧ appendUnit n s = .fault .outputStalled) := by
  cases h : outAppend (s.readBytes .obuf 0 n) s with
  | none => exact .inr ⟨rfl, by simp [appendUnit, h]⟩
  | some t => exact .inl ⟨t, rfl, by simp [appendUnit, h]⟩

/-! ### Ending an operation -/

/-- What every end of an operation leaves alone: all but STATUS, FLAGS and PH (R210). -/
theorem State.finish_frame (r : Status) (s : State) :
    s.finish r = { s with status := r, flags := s.flags ||| r.flagMask, ph := r.phaseAfter s.ph } := rfl

/-- The four results that are no stream results leave PH as it was, so nothing but STATUS and FLAGS changes. -/
theorem State.finish_of_not_stream (r : Status) (s : State) (h1 : r ≠ .eos) (h2 : r ≠ .eTruncated) :
    s.finish r = { s with status := r, flags := s.flags ||| r.flagMask } := by
  cases r <;> simp_all [State.finish]

/-- A flag that is set stays set at the end of every operation (R35). -/
theorem State.finish_keeps_flag (r : Status) (s : State) (k : Nat) (h : s.flags.getLsbD k = true) :
    (s.finish r).flags.getLsbD k = true := by
  simp [BitVec.getLsbD_or, h]

end Sys2Proof.Machine
end

