-- ==== Sys2Proof/Laws/Exec.lean ====
section
/-! SUPPORT. What an instruction can do, said once: `exec_effect` lists every way `exec i s` can answer a next state,
with the state it answers; `exec_fault` every way it can be stuck. Claims about all instructions are case analyses of
these two. -/

namespace Sys2Proof.Machine

/-- The parser's state once a PARSE has both header bytes (R141). -/
def withHeaderBytes (b0 b1 : Byte) (s : State) : State := (s.startParse.takeByte0 b0).takeByte1 b1

/-- Every way an instruction answers a next state. -/
inductive Effect (s : State) : Instr → State → Prop where
  /-- A result that is no stream result: nothing but STATUS and FLAGS (R210). -/
  | refused (i : Instr) (r : Status)
      (hr : r = .eFieldTooLarge ∨ r = .eOverflow ∨ r = .eValueRange ∨ r = .eIllegal)
      (hi : r ∈ possibleResults i) (ho : operandResult i = some r ∨ operandResult i = none ∧ r = .eOverflow) :
      Effect s i (s.finish r)
  /-- A write that fits (R120). -/
  | wrote (i : Instr) (bs : List Byte) (hb : bytesWritten s i = some bs) (hf : s.wcur + bs.length ≤ s.cfg.obufCap) :
      Effect s i (((s.storeObuf s.wcur bs).setCursor (s.wcur + bs.length)).finish .ok)
  /-- R126. -/
  | cursor (p : Nat) (hp : p ≤ s.cfg.obufCap) : Effect s (.setcur p) ((s.setCursor p).finish .ok)
  /-- R127. -/
  | flushed (t : State) (h : outAppend (s.readBytes .obuf 0 s.wcur) s = some t) :
      Effect s .flush ((t.committed s.wcur).finish .ok)
  /-- R170. -/
  | packed (c p : Nat) (hc : c ≤ 63) (hp : p ≤ 1023) :
      Effect s (.pack c p) ((s.setHeader (packHeader c p)).finish .ok)
  /-- R171. -/
  | serialised (c p : Nat) (t : State) (hc : c ≤ 63) (hp : p ≤ 1023) (hf : 2 + c + p ≤ s.cfg.obufCap)
      (h : outAppend ((buildUnit c p s).readBytes .obuf 0 (2 + c + p)) (buildUnit c p s) = some t) :
      Effect s (.ser c p) ((t.committed (2 + c + p)).finish .ok)
  /-- R140. -/
  | unpacked (v0 v1 : Nat) (h0 : v0 ≤ 0xFF) (h1 : v1 ≤ 0xFF) :
      Effect s (.unpack v0 v1) ((s.setLengths (BitVec.ofNat 8 v0) (BitVec.ofNat 8 v1)).clearRecord.finish .ok)
  /-- R145, DONE. -/
  | stillDone (i : Instr) (hi : i = .parse ∨ ∃ c p, i = .recordHeader c p) (hp : s.ph = .done) :
      Effect s i (s.finish .eos)
  /-- R145, ERROR. -/
  | stillError (i : Instr) (hi : i = .parse ∨ ∃ c p, i = .recordHeader c p) (hp : s.ph = .error) :
      Effect s i (s.finish .eTruncated)
  /-- R143, no byte left. -/
  | ended (hp : s.ph ≠ .done ∧ s.ph ≠ .error) (hb : s.inp.bytes = []) (he : s.inp.ending = .eos) :
      Effect s .parse ((s.startParse.setIn ⟨[], .eos⟩).finish .eos)
  /-- R143, one byte left. -/
  | endedStray (v : Byte) (hp : s.ph ≠ .done ∧ s.ph ≠ .error) (hb : s.inp.bytes = [v]) (he : s.inp.ending = .eos) :
      Effect s .parse (((s.startParse.setIn ⟨[], .eos⟩).takeByte0 v).finish .eos)
  /-- R142: the record that begins with the header `b0, b1`, by a PARSE that reads them or as the header itself. -/
  | received (i : Instr) (b0 b1 : Byte) (pkt rest : List Byte)
      (hi : i = .parse ∧ s.inp.bytes = b0 :: b1 :: (pkt ++ rest) ∨
        (∃ c p, i = .recordHeader c p ∧ b0 = headerByte0 (headerWord c p) ∧ b1 = headerByte1 (headerWord c p)) ∧
          s.inp.bytes = pkt ++ rest)
      (hp : s.ph ≠ .done ∧ s.ph ≠ .error)
      (hl : pkt.length = b0.toNat / 4 + (b0.toNat % 4 * 256 + b1.toNat)) :
      Effect s i
        ((((withHeaderBytes b0 b1 s).setIn ⟨rest, s.inp.ending⟩).storePacket pkt).deliver.finish .ok)
  /-- R144: the same, with the stream ending inside the packet. -/
  | truncated (i : Instr) (b0 b1 : Byte) (part : List Byte)
      (hi : i = .parse ∧ s.inp.bytes = b0 :: b1 :: part ∨
        (∃ c p, i = .recordHeader c p ∧ b0 = headerByte0 (headerWord c p) ∧ b1 = headerByte1 (headerWord c p)) ∧
          s.inp.bytes = part)
      (hp : s.ph ≠ .done ∧ s.ph ≠ .error) (he : s.inp.ending = .eos)
      (hl : part.length < b0.toNat / 4 + (b0.toNat % 4 * 256 + b1.toNat)) :
      Effect s i
        ((((withHeaderBytes b0 b1 s).setIn ⟨[], .eos⟩).storePacket part).finish .eTruncated)
  /-- R190. -/
  | reset : Effect s .reset (s.resetBlock.finish .ok)

theorem withHeaderBytes_psz (b0 b1 : Byte) (s : State) :
    (withHeaderBytes b0 b1 s).psz.toNat = b0.toNat / 4 + (b0.toNat % 4 * 256 + b1.toNat) := by
  simp only [withHeaderBytes, State.takeByte1_psz, State.takeByte0_b0]
  rw [packetSize_toNat, extradataSize_toNat, framedataSize_toNat]

/-- Everything a write can answer (R120). -/
theorem writeAtCursor_effect (i : Instr) (bs : List Byte) (s : State) (hb : bytesWritten s i = some bs)
    (hi : Status.eOverflow ∈ possibleResults i) (ho : operandResult i = none) :
    Effect s i (writeAtCursor bs s) := by
  by_cases h : s.cfg.obufCap < s.wcur + bs.length
  · rw [writeAtCursor_overflow bs s h]
    exact .refused i _ (by simp) hi (.inr ⟨ho, rfl⟩)
  · rw [writeAtCursor_fits bs s (Nat.not_lt.1 h)]
    exact .wrote i bs hb (Nat.not_lt.1 h)

/-- Everything the rest of a PARSE can answer once the header bytes are there (R141). -/
theorem receiveRecord_effect (i : Instr) (b0 b1 : Byte) (rest : List Byte) (s t : State)
    (hi : i = .parse ∧ s.inp.bytes = b0 :: b1 :: rest ∨
      (∃ c p, i = .recordHeader c p ∧ b0 = headerByte0 (headerWord c p) ∧ b1 = headerByte1 (headerWord c p)) ∧
        s.inp.bytes = rest)
    (hp : s.ph ≠ .done ∧ s.ph ≠ .error)
    (h : receiveRecord b0 b1 (s.startParse.setIn ⟨rest, s.inp.ending⟩) = .next t) : Effect s i t := by
  have hcomm : ((s.startParse.setIn ⟨rest, s.inp.ending⟩).takeByte0 b0).takeByte1 b1 =
      (withHeaderBytes b0 b1 s).setIn ⟨rest, s.inp.ending⟩ := rfl
  have hpsz : ((withHeaderBytes b0 b1 s).setIn ⟨rest, s.inp.ending⟩).psz.toNat =
      b0.toNat / 4 + (b0.toNat % 4 * 256 + b1.toNat) := withHeaderBytes_psz b0 b1 s
  unfold receiveRecord receivePacket at h
  rw [hcomm] at h
  split at h
  · cases h
  · rename_i r s1 hr
    rcases inRead_cases hr with ⟨more, hb, hl, rfl⟩ | ⟨hb, hl, he, rfl⟩
    · rw [if_neg (by omega)] at h
      simp only [State.setIn_inp] at hb
      obtain rfl := (Host.Outcome.next.inj h).symm
      exact .received i b0 b1 r more (by rwa [← hb]) hp (by omega)
    · rw [if_pos hl] at h
      simp only [State.setIn_inp] at hb he
      obtain rfl := (Host.Outcome.next.inj h).symm
      subst hb
      exact .truncated i b0 b1 rest hi hp he (by omega)

/-- Everything a PARSE past its phase check can answer (R141). -/
theorem parseRecord_effect (s t : State) (hp : s.ph ≠ .done ∧ s.ph ≠ .error) (h : parseRecord s = .next t) :
    Effect s .parse t := by
  unfold parseRecord at h
  split at h
  · cases h
  · rename_i s1 hr
    obtain rfl := (Host.Outcome.next.inj h).symm
    rcases inRead_cases hr with ⟨_, _, hl, _⟩ | ⟨hb, _, he, rfl⟩
    · simp at hl
    · exact .ended hp hb he
  · rename_i v s1 hr
    obtain rfl := (Host.Outcome.next.inj h).symm
    rcases inRead_cases hr with ⟨_, _, hl, _⟩ | ⟨hb, _, he, rfl⟩
    · simp at hl
    · exact .endedStray v hp hb he
  · rename_i v0 v1 tl s1 hr
    rcases inRead_cases hr with ⟨more, hb, hl, rfl⟩ | ⟨_, hl, _, _⟩
    · obtain rfl : tl = [] := by simpa using hl
      exact receiveRecord_effect .parse v0 v1 more s t (.inl ⟨rfl, hb⟩) hp h
    · simp at hl

/-- Every way an instruction answers a next state. -/
theorem exec_effect {i : Instr} {s t : State} (h : exec i s = .next t) : Effect s i t := by
  cases i with
  | wr8 a =>
    simp only [exec, execWr8] at h
    split at h <;> obtain rfl := (Host.Outcome.next.inj h).symm
    · exact .refused _ _ (by simp) (by simp [possibleResults]) (.inl (by simp only [operandResult]; rw [if_pos (by assumption)]))
    · exact writeAtCursor_effect _ _ s rfl (by simp [possibleResults]) (by simp only [operandResult]; rw [if_neg (by assumption)])
  | wr16 a =>
    simp only [exec, execWr16] at h
    split at h <;> obtain rfl := (Host.Outcome.next.inj h).symm
    · exact .refused _ _ (by simp) (by simp [possibleResults]) (.inl (by simp only [operandResult]; rw [if_pos (by assumption)]))
    · exact writeAtCursor_effect _ _ s rfl (by simp [possibleResults]) (by simp only [operandResult]; rw [if_neg (by assumption)])
  | wr24 a =>
    simp only [exec, execWr24] at h
    split at h <;> obtain rfl := (Host.Outcome.next.inj h).symm
    · exact .refused _ _ (by simp) (by simp [possibleResults]) (.inl (by simp only [operandResult]; rw [if_pos (by assumption)]))
    · exact writeAtCursor_effect _ _ s rfl (by simp [possibleResults]) (by simp only [operandResult]; rw [if_neg (by assumption)])
  | wr32 a =>
    simp only [exec, execWr32] at h
    obtain rfl := (Host.Outcome.next.inj h).symm
    exact writeAtCursor_effect _ _ s rfl (by simp [possibleResults]) rfl
  | wrn sel n =>
    simp only [exec, execWrn] at h
    rcases sel with _ | _ | sel
    · simp only [sourceOf] at h
      by_cases hn : n > s.cfg.capacity (Source.buf .cfg)
      · rw [if_pos hn] at h
        obtain rfl := (Host.Outcome.next.inj h).symm
        have hn' : n > 63 := hn
        exact .refused _ _ (by simp) (by simp [possibleResults])
          (.inl (if_pos (.inr (.inl ⟨rfl, hn'⟩))))
      · rw [if_neg hn] at h
        obtain rfl := (Host.Outcome.next.inj h).symm
        have hn' : ¬ n > 63 := hn
        exact writeAtCursor_effect _ _ s rfl (by simp [possibleResults])
          (by simp only [operandResult]; rw [if_neg (by omega)])
    · simp only [sourceOf] at h
      by_cases hn : n > s.cfg.capacity (Source.buf .pay)
      · rw [if_pos hn] at h
        obtain rfl := (Host.Outcome.next.inj h).symm
        have hn' : n > 1023 := hn
        exact .refused _ _ (by simp) (by simp [possibleResults])
          (.inl (if_pos (.inr (.inr ⟨rfl, hn'⟩))))
      · rw [if_neg hn] at h
        obtain rfl := (Host.Outcome.next.inj h).symm
        have hn' : ¬ n > 1023 := hn
        exact writeAtCursor_effect _ _ s rfl (by simp [possibleResults])
          (by simp only [operandResult]; rw [if_neg (by omega)])
    · simp only [sourceOf] at h
      obtain rfl := (Host.Outcome.next.inj h).symm
      exact .refused _ _ (by simp) (by simp [possibleResults])
        (.inl (by simp only [operandResult]; rw [if_pos (by omega)]))
  | setcur p =>
    simp only [exec, execSetcur] at h
    split at h <;> obtain rfl := (Host.Outcome.next.inj h).symm
    · exact .refused _ _ (by simp) (by simp [possibleResults]) (.inr ⟨rfl, rfl⟩)
    · exact .cursor p (by omega)
  | flush =>
    simp only [exec, execFlush] at h
    rcases appendUnit_cases s.wcur s with ⟨t', ha, he⟩ | ⟨_, he⟩
    · rw [he] at h
      obtain rfl := (Host.Outcome.next.inj h).symm
      exact .flushed t' ha
    · rw [he] at h; cases h
  | pack c p =>
    simp only [exec, execPack] at h
    split at h <;> obtain rfl := (Host.Outcome.next.inj h).symm
    · rename_i hs
      obtain ⟨hc, hp⟩ := (sizesFit_iff c p).1 hs
      exact .packed c p hc hp
    · rename_i hs
      rw [sizesFit_iff] at hs
      exact .refused _ _ (by simp) (by simp [possibleResults])
        (.inl (by simp only [operandResult]; rw [if_pos (by omega)]))
  | ser c p =>
    simp only [exec, execSer] at h
    split at h
    · rename_i hs
      obtain ⟨hc, hp⟩ := (sizesFit_iff c p).1 hs
      split at h
      · obtain rfl := (Host.Outcome.next.inj h).symm
        exact .refused _ _ (by simp) (by simp [possibleResults])
          (.inr ⟨by simp only [operandResult]; rw [if_neg (by omega)], rfl⟩)
      · rename_i hf
        rcases appendUnit_cases (2 + c + p) (buildUnit c p s) with ⟨t', ha, he⟩ | ⟨_, he⟩
        · rw [he] at h
          obtain rfl := (Host.Outcome.next.inj h).symm
          exact .serialised c p t' hc hp (by omega) ha
        · rw [he] at h; cases h
    · rename_i hs
      rw [sizesFit_iff] at hs
      obtain rfl := (Host.Outcome.next.inj h).symm
      exact .refused _ _ (by simp) (by simp [possibleResults])
        (.inl (by simp only [operandResult]; rw [if_pos (by omega)]))
  | unpack v0 v1 =>
    simp only [exec, execUnpack] at h
    split at h <;> obtain rfl := (Host.Outcome.next.inj h).symm
    · rename_i hv
      exact .refused _ _ (by simp) (by simp [possibleResults])
        (.inl (by simp only [operandResult]; rw [if_pos (by omega)]))
    · exact .unpacked v0 v1 (by omega) (by omega)
  | parse =>
    simp only [exec, execParse] at h
    split at h
    · obtain rfl := (Host.Outcome.next.inj h).symm
      exact .stillDone _ (.inl rfl) (by assumption)
    · obtain rfl := (Host.Outcome.next.inj h).symm
      exact .stillError _ (.inl rfl) (by assumption)
    all_goals
      rename_i hp
      exact parseRecord_effect s t (by simp [hp]) h
  | reset =>
    simp only [exec, execReset] at h
    obtain rfl := (Host.Outcome.next.inj h).symm
    exact .reset
  | illegal0 =>
    simp only [exec, execIllegal0] at h
    obtain rfl := (Host.Outcome.next.inj h).symm
    exact .refused _ _ (by simp) (by simp [possibleResults]) (.inl rfl)
  | illegalC =>
    simp only [exec, execIllegalC] at h
    obtain rfl := (Host.Outcome.next.inj h).symm
    exact .refused _ _ (by simp) (by simp [possibleResults]) (.inl rfl)
  | illegalD =>
    simp only [exec, execIllegalD] at h
    obtain rfl := (Host.Outcome.next.inj h).symm
    exact .refused _ _ (by simp) (by simp [possibleResults]) (.inl rfl)
  | illegalE =>
    simp only [exec, execIllegalE] at h
    obtain rfl := (Host.Outcome.next.inj h).symm
    exact .refused _ _ (by simp) (by simp [possibleResults]) (.inl rfl)
  | recordHeader c p =>
    have self : s.startParse = s.startParse.setIn ⟨s.inp.bytes, s.inp.ending⟩ := rfl
    simp only [exec, execRecordHeader] at h
    split at h
    · obtain rfl := (Host.Outcome.next.inj h).symm
      exact .stillDone _ (.inr ⟨c, p, rfl⟩) (by assumption)
    · obtain rfl := (Host.Outcome.next.inj h).symm
      exact .stillError _ (.inr ⟨c, p, rfl⟩) (by assumption)
    all_goals
      rename_i hp
      rw [self] at h
      exact receiveRecord_effect _ _ _ s.inp.bytes s t (.inr ⟨⟨c, p, rfl, rfl, rfl⟩, rfl⟩) (by simp [hp]) h

/-- Every way an instruction is stuck: a parser operation whose input stalls, or FLUSH or SER whose sink does. -/
theorem exec_fault {i : Instr} {s : State} {r : Fault} (h : exec i s = .fault r) :
    (r = .inputStalled ∧ (i = .parse ∨ ∃ c p, i = .recordHeader c p) ∧ s.inp.ending = .never ∧
      s.ph ≠ .done ∧ s.ph ≠ .error) ∨
    (r = .outputStalled ∧
      (i = .flush ∧ outAppend (s.readBytes .obuf 0 s.wcur) s = none ∨
        ∃ c p, i = .ser c p ∧ c ≤ 63 ∧ p ≤ 1023 ∧ 2 + c + p ≤ s.cfg.obufCap ∧
          outAppend ((buildUnit c p s).readBytes .obuf 0 (2 + c + p)) (buildUnit c p s) = none)) := by
  have receive : ∀ (b0 b1 : Byte) (s1 : State), receiveRecord b0 b1 s1 = .fault r →
      r = .inputStalled ∧ s1.inp.ending = .never := by
    intro b0 b1 s1 h
    unfold receiveRecord receivePacket at h
    split at h
    · rename_i hr
      exact ⟨(Host.Outcome.fault.inj h).symm, ((inRead_eq_none_iff _ _).1 hr).2⟩
    · split at h <;> cases h
  have record : parseRecord s = .fault r → r = .inputStalled ∧ s.inp.ending = .never := by
    intro h
    unfold parseRecord at h
    split at h
    · rename_i hr
      exact ⟨(Host.Outcome.fault.inj h).symm, ((inRead_eq_none_iff _ _).1 hr).2⟩
    · cases h
    · cases h
    · rename_i v0 v1 tl s1 hr
      obtain ⟨h1, h2⟩ := receive _ _ _ h
      refine ⟨h1, ?_⟩
      rcases inRead_cases hr with ⟨_, _, _, rfl⟩ | ⟨_, _, _, rfl⟩
      · exact h2
      · simp at h2
  cases i with
  | wr8 a => simp only [exec, execWr8] at h; split at h <;> cases h
  | wr16 a => simp only [exec, execWr16] at h; split at h <;> cases h
  | wr24 a => simp only [exec, execWr24] at h; split at h <;> cases h
  | wr32 a => simp only [exec, execWr32] at h; cases h
  | wrn sel n =>
    simp only [exec, execWrn] at h
    split at h
    · cases h
    · split at h <;> cases h
  | setcur p => simp only [exec, execSetcur] at h; split at h <;> cases h
  | flush =>
    simp only [exec, execFlush] at h
    rcases appendUnit_cases s.wcur s with ⟨t', ha, he⟩ | ⟨ha, he⟩
    · rw [he] at h; cases h
    · rw [he] at h
      exact .inr ⟨(Host.Outcome.fault.inj h).symm, .inl ⟨rfl, ha⟩⟩
  | pack c p => simp only [exec, execPack] at h; split at h <;> cases h
  | ser c p =>
    simp only [exec, execSer] at h
    split at h
    · rename_i hs
      obtain ⟨hc, hp⟩ := (sizesFit_iff c p).1 hs
      split at h
      · cases h
      · rename_i hf
        rcases appendUnit_cases (2 + c + p) (buildUnit c p s) with ⟨t', ha, he⟩ | ⟨ha, he⟩
        · rw [he] at h; cases h
        · rw [he] at h
          exact .inr ⟨(Host.Outcome.fault.inj h).symm, .inr ⟨c, p, rfl, hc, hp, by omega, ha⟩⟩
    · cases h
  | unpack v0 v1 => simp only [exec, execUnpack] at h; split at h <;> cases h
  | parse =>
    simp only [exec, execParse] at h
    split at h
    · cases h
    · cases h
    all_goals
      rename_i hp
      obtain ⟨h1, h2⟩ := record h
      exact .inl ⟨h1, .inl rfl, h2, by simp [hp], by simp [hp]⟩
  | reset => simp only [exec, execReset] at h; cases h
  | illegal0 => simp only [exec, execIllegal0] at h; cases h
  | illegalC => simp only [exec, execIllegalC] at h; cases h
  | illegalD => simp only [exec, execIllegalD] at h; cases h
  | illegalE => simp only [exec, execIllegalE] at h; cases h
  | recordHeader c p =>
    simp only [exec, execRecordHeader] at h
    split at h
    · cases h
    · cases h
    all_goals
      rename_i hp
      obtain ⟨h1, h2⟩ := receive _ _ _ h
      exact .inl ⟨h1, .inr ⟨c, p, rfl⟩, h2, by simp [hp], by simp [hp]⟩

/-- No instruction is without a meaning. -/
theorem exec_not_refused (i : Instr) (s : State) (r : Refusal) : exec i s ≠ .refused r := by
  have receive : ∀ (b0 b1 : Byte) (s1 : State), receiveRecord b0 b1 s1 ≠ .refused r := by
    intro b0 b1 s1
    unfold receiveRecord receivePacket
    split
    · simp
    · split <;> simp
  have record : parseRecord s ≠ .refused r := by
    unfold parseRecord
    split <;> first | exact receive _ _ _ | simp
  have unit : ∀ (n : Nat) (s1 : State), appendUnit n s1 ≠ .refused r := by
    intro n s1
    rcases appendUnit_cases n s1 with ⟨_, _, he⟩ | ⟨_, he⟩ <;> simp [he]
  cases i with
  | wr8 a => simp only [exec, execWr8]; split <;> simp
  | wr16 a => simp only [exec, execWr16]; split <;> simp
  | wr24 a => simp only [exec, execWr24]; split <;> simp
  | wr32 a => simp [exec, execWr32]
  | wrn sel n =>
    simp only [exec, execWrn]
    split
    · simp
    · split <;> simp
  | setcur p => simp only [exec, execSetcur]; split <;> simp
  | flush => exact unit _ _
  | pack c p => simp only [exec, execPack]; split <;> simp
  | ser c p =>
    simp only [exec, execSer]
    split
    · split
      · simp
      · exact unit _ _
    · simp
  | unpack v0 v1 => simp only [exec, execUnpack]; split <;> simp
  | parse => simp only [exec, execParse]; split <;> first | exact record | simp
  | reset => simp [exec, execReset]
  | illegal0 => simp [exec, execIllegal0]
  | illegalC => simp [exec, execIllegalC]
  | illegalD => simp [exec, execIllegalD]
  | illegalE => simp [exec, execIllegalE]
  | recordHeader c p => simp only [exec, execRecordHeader]; split <;> first | exact receive _ _ _ | simp

end Sys2Proof.Machine
end

