-- ==== Sys2Proof/Laws/PerInstr.lean ====
section
/-! SUPPORT. The family EncodedOp of LAWS.json: the encoder puts each instruction under the match and mask of its row
of spec/opcode_table.json. -/

namespace Sys2Proof.Laws.EncodedOp

/-- `match` and `mask` of the instruction's row, and the row's width in bits, as the table gives them. -/
def row : Instr → Nat × Nat × Nat
  | .wr8 _ => (68, 0x10000000000000000, 0xF0000000000000000)
  | .wr16 _ => (68, 0x20000000000000000, 0xF0000000000000000)
  | .wr24 _ => (68, 0x30000000000000000, 0xF0000000000000000)
  | .wr32 _ => (68, 0x40000000000000000, 0xF0000000000000000)
  | .wrn _ _ => (68, 0x50000000000000000, 0xF0000000000000000)
  | .setcur _ => (68, 0x60000000000000000, 0xF0000000000000000)
  | .flush => (68, 0x70000000000000000, 0xF0000000000000000)
  | .pack _ _ => (68, 0x80000000000000000, 0xF0000000000000000)
  | .ser _ _ => (68, 0x90000000000000000, 0xF0000000000000000)
  | .unpack _ _ => (68, 0xA0000000000000000, 0xF0000000000000000)
  | .parse => (68, 0xB0000000000000000, 0xF0000000000000000)
  | .reset => (68, 0xF0000000000000000, 0xF0000000000000000)
  | .illegal0 => (68, 0x00000000000000000, 0xF0000000000000000)
  | .illegalC => (68, 0xC0000000000000000, 0xF0000000000000000)
  | .illegalD => (68, 0xD0000000000000000, 0xF0000000000000000)
  | .illegalE => (68, 0xE0000000000000000, 0xF0000000000000000)
  | .recordHeader _ _ => (16, 0x0000, 0x0000)

/-- A code word's width in bits and its value. -/
def bits : CodeWord → Nat × Nat
  | .cmd68 w => (68, w.toNat)
  | .hdr16 h => (16, h.toNat)

/-- The encoding has the row's width, and under the row's mask it is the row's match. -/
def Statement (i : Instr) : Prop :=
  (bits (encode i)).1 = (row i).1 ∧ (bits (encode i)).2 &&& (row i).2.2 = (row i).2.1

theorem command_masked (op : BitVec 4) (a b : Nat) :
    (commandWord op a b).toNat &&& 0xF0000000000000000 = op.toNat * 2 ^ 64 := by
  have h : commandWord op a b &&& 0xF0000000000000000#68 = op ++ 0#64 := by
    ext i hi
    rw [← BitVec.getLsbD_eq_getElem, ← BitVec.getLsbD_eq_getElem,
      show (0xF0000000000000000#68) = 0xF#4 ++ 0#64 by decide]
    simp only [BitVec.getLsbD_and, commandWord, BitVec.getLsbD_append]
    by_cases h1 : i < 64
    · simp [h1]
    · have h2 : ¬ (i < 32) := by omega
      have h3 : ¬ (i - 32 < 32) := by omega
      have h4 : i - 64 < 4 := by omega
      simp only [h1, h2, h3, if_false]
      rw [show (0xF#4) = BitVec.allOnes 4 by decide, BitVec.getLsbD_allOnes]
      simp [h4, show i - 32 - 32 = i - 64 by omega]
  have := congrArg BitVec.toNat h
  rw [BitVec.toNat_and, BitVec.toNat_append] at this
  simpa [Nat.shiftLeft_eq] using this

theorem wr8 (a : Nat) : Statement (.wr8 a) := ⟨rfl, command_masked 1#4 a 0⟩
theorem wr16 (a : Nat) : Statement (.wr16 a) := ⟨rfl, command_masked 2#4 a 0⟩
theorem wr24 (a : Nat) : Statement (.wr24 a) := ⟨rfl, command_masked 3#4 a 0⟩
theorem wr32 (a : Nat) : Statement (.wr32 a) := ⟨rfl, command_masked 4#4 a 0⟩
theorem wrn (sel n : Nat) : Statement (.wrn sel n) := ⟨rfl, command_masked 5#4 sel n⟩
theorem setcur (p : Nat) : Statement (.setcur p) := ⟨rfl, command_masked 6#4 p 0⟩
theorem flush : Statement .flush := ⟨rfl, command_masked 7#4 0 0⟩
theorem pack (c p : Nat) : Statement (.pack c p) := ⟨rfl, command_masked 8#4 c p⟩
theorem ser (c p : Nat) : Statement (.ser c p) := ⟨rfl, command_masked 9#4 c p⟩
theorem unpack (b0 b1 : Nat) : Statement (.unpack b0 b1) := ⟨rfl, command_masked 10#4 b0 b1⟩
theorem parse : Statement .parse := ⟨rfl, command_masked 11#4 0 0⟩
theorem reset : Statement .reset := ⟨rfl, command_masked 15#4 0 0⟩
theorem illegal0 : Statement .illegal0 := ⟨rfl, command_masked 0#4 0 0⟩
theorem illegalC : Statement .illegalC := ⟨rfl, command_masked 12#4 0 0⟩
theorem illegalD : Statement .illegalD := ⟨rfl, command_masked 13#4 0 0⟩
theorem illegalE : Statement .illegalE := ⟨rfl, command_masked 14#4 0 0⟩
theorem recordHeader (c p : Nat) : Statement (.recordHeader c p) := ⟨rfl, by simp [bits, encode, row]⟩

end Sys2Proof.Laws.EncodedOp
end

