-- ==== Sys2Proof/Laws/Units.lean ====
section
/-! SUPPORT. What is written at the cursor, what an append leaves, and the unit that SER builds as the wire form of a
record. -/

namespace Sys2Proof.Machine

/-- A write that fits, in one: its bytes from the old cursor on, the cursor past them, and its frame (R120). -/
theorem wrote_frame (s t : State) (bs : List Byte)
    (ht : t = ((s.storeObuf s.wcur bs).setCursor (s.wcur + bs.length)).finish .ok) :
    t.status = .ok ∧ t.flags = s.flags ∧ t.wcur = s.wcur + bs.length ∧
      (∀ j, j < bs.length → t.obuf.read? (s.wcur + j) = bs[j]?) ∧
      KeptOutside s.wcur (s.wcur + bs.length) s.obuf t.obuf ∧ t.hdr = s.hdr ∧ t.wlen = s.wlen ∧ ParserKept s t ∧
      SourcesKept s t ∧ t.inp = s.inp ∧ t.out = s.out ∧ ModelKept s t := by
  subst ht
  refine ⟨rfl, by simp, by simp, fun j hj => ?_, fun x hx => ?_, rfl, rfl, by simp [ParserKept],
    by simp [SourcesKept], rfl, rfl, by simp [ModelKept]⟩
  · exact Memory.read?_writeBytes_inside _ _ _ _ hj
  · exact Memory.read?_writeBytes_outside _ _ _ _ hx

/-- A sink that takes the bytes takes the append (R70). -/
theorem outAppend_of_takes (u : List Byte) (s : State) (h : sinkTakes u.length s) : ∃ t, outAppend u s = some t := by
  cases e : outAppend u s with
  | some t => exact ⟨t, rfl⟩
  | none =>
    obtain ⟨k, h1, h2⟩ := (outAppend_eq_none_iff u s).1 e
    exact absurd (h k h1) (by omega)

/-- What an append leaves, field by field of OUT, and that nothing else changes (R70). -/
theorem outAppend_spec {u : List Byte} {s t : State} (h : outAppend u s = some t) :
    t.out.bytes = s.out.bytes ++ u ∧ t.out.units = (if u = [] then s.out.units else s.out.units ++ [u]) ∧
      t.out.accepts = s.out.accepts.map (fun k => k - u.length) ∧ t = s.setOut t.out := by
  refine ⟨outAppend_bytes h, ?_⟩
  rcases outAppend_cases h with ⟨rfl, rfl⟩ | ⟨hne, acc, rfl, ha, -⟩
  · refine ⟨by simp, ?_, rfl⟩
    cases t.out.accepts <;> simp
  · exact ⟨by simp [hne], ha, rfl⟩

/-- Whether and what an append answers depends on the bytes and on OUT alone. -/
theorem outAppend_congr (u : List Byte) (s s' : State) (h : s'.out = s.out) :
    outAppend u s' = (outAppend u s).map fun t => s'.setOut t.out := by
  cases u with
  | nil => simp [outAppend, ← h, State.setOut]
  | cons v u =>
    cases ha : s.out.accepts with
    | none => simp [outAppend, h, ha]
    | some k => by_cases hk : u.length + 1 ≤ k <;> simp [outAppend, h, ha, hk]

/-- From address 0 a read is the bytes of the addresses in order. -/
theorem State.readBytes_eq_map (s : State) (b : Buf) (n : Nat) :
    s.readBytes b 0 n = (List.range n).map (s.byteAt b) := by
  apply List.ext_getElem?
  intro j
  by_cases hj : j < n
  · rw [State.getElem?_readBytes _ _ _ _ _ hj]; simp [hj]
  · rw [List.getElem?_eq_none (by simp; omega), List.getElem?_eq_none (by simp; omega)]

/-- A source buffer reads alike in two states with the same contents and draw. -/
theorem State.readBytes_of_mem_eq (s t : State) (b : Buf) (a n : Nat) (hm : s.mem b = t.mem b)
    (hd : s.draw = t.draw) : s.readBytes b a n = t.readBytes b a n :=
  State.readBytes_congr _ _ _ _ _ _ _ fun _ _ => State.byteAt_congr _ _ _ _ (by rw [hm]) hd

/-! ### The unit of SER -/

theorem packHeader_eq_ofNat (c p : Nat) (hc : c ≤ 63) (hp : p ≤ 1023) :
    packHeader c p = BitVec.ofNat 16 (c * 1024 + p) := by
  apply BitVec.eq_of_toNat_eq
  rw [packHeader_toNat c p hc hp, BitVec.toNat_ofNat]
  omega

/-- The two header bytes as SER writes them (R93, R61). -/
theorem bytesBE_packHeader (c p : Nat) (hc : c ≤ 63) (hp : p ≤ 1023) :
    bytesBE 2 (packHeader c p).toNat = [BitVec.ofNat 8 (c * 4 + p / 256), BitVec.ofNat 8 (p % 256)] := by
  rw [packHeader_toNat c p hc hp]
  simp only [bytesBE, Nat.shiftRight_eq_div_pow]
  congr 1
  · congr 1; omega
  · congr 1
    apply BitVec.eq_of_toNat_eq
    simp only [BitVec.toNat_ofNat]
    omega

@[simp] theorem Record.length_wire (r : Record) : r.wire.length = 2 + r.1.length + r.2.length := by
  simp [Record.wire]; omega

/-- The record that SER makes of the source buffers. -/
theorem unit_eq_wire (c p : Nat) (s : State) (hc : c ≤ 63) (hp : p ≤ 1023) :
    bytesBE 2 (packHeader c p).toNat ++ s.readBytes .cfgbuf 0 c ++ s.readBytes .paybuf 0 p =
      Record.wire ((List.range c).map (s.byteAt .cfgbuf), (List.range p).map (s.byteAt .paybuf)) := by
  rw [bytesBE_packHeader c p hc hp, State.readBytes_eq_map, State.readBytes_eq_map]
  simp [Record.wire]

/-- The three writes of SER are one. -/
theorem buildUnit_obuf (c p : Nat) (s : State) :
    (buildUnit c p s).obuf = s.obuf.writeBytes 0
      (bytesBE 2 (packHeader c p).toNat ++ s.readBytes .cfgbuf 0 c ++ s.readBytes .paybuf 0 p) := by
  rw [Memory.writeBytes_append, Memory.writeBytes_append]
  simp [buildUnit]

/-- What SER appends is the record's wire form. -/
theorem readBytes_buildUnit (c p : Nat) (s : State) (hc : c ≤ 63) (hp : p ≤ 1023) :
    (buildUnit c p s).readBytes .obuf 0 (2 + c + p) =
      Record.wire ((List.range c).map (s.byteAt .cfgbuf), (List.range p).map (s.byteAt .paybuf)) := by
  have hl := Record.length_wire ((List.range c).map (s.byteAt .cfgbuf), (List.range p).map (s.byteAt .paybuf))
  simp only [List.length_map, List.length_range] at hl
  rw [← hl]
  apply State.readBytes_of_read?
  intro j hj
  rw [State.mem_obuf, buildUnit_obuf, unit_eq_wire c p s hc hp, Memory.read?_writeBytes_inside _ _ _ _ hj]

end Sys2Proof.Machine
end

