-- ==== Sys2Proof/Laws/Step.lean ====
section
/-! SUPPORT. Everything one step can answer, said once, and what any instruction does to PH and to FLAGS. Claims about
every step are case analyses of `step_cases`. -/

namespace Sys2Proof.Machine

/-- Every way a step answers a next state. -/
theorem step_cases {s t : State} (h : step s = .next t) :
    (s.host = [] ∧ t = s) ∨
    (∃ w rest, s.host = .command w :: rest ∧ Effect (s.setHost rest) (decodeCommand w) t) ∨
    (∃ src a v rest, s.host = .load src a v :: rest ∧ a < s.cfg.capacity src.buf ∧
      t = (s.setHost rest).loadSource src a v) ∨
    (∃ stream rest, s.host = .attach stream :: rest ∧ s.ph = .hdr0 ∧ t = (s.setHost rest).setIn stream) ∨
    (∃ rest, s.host = .hardReset :: rest ∧ t = (s.setHost rest).resetBlock) := by
  unfold step at h
  split at h
  · rename_i e
    cases h
    exact .inl ⟨e, rfl⟩
  · rename_i m rest e
    right
    cases m with
    | command w => exact .inl ⟨w, rest, e, exec_effect h⟩
    | load src a v =>
      simp only [performMove, performLoad] at h
      split at h
      · rename_i hl
        cases h
        exact .inr (.inl ⟨src, a, v, rest, e, hl, rfl⟩)
      · cases h
    | attach stream =>
      simp only [performMove, performAttach] at h
      split at h
      · rename_i hl
        cases h
        exact .inr (.inr (.inl ⟨stream, rest, e, hl, rfl⟩))
      all_goals cases h
    | hardReset =>
      cases h
      exact .inr (.inr (.inr ⟨rest, e, rfl⟩))

/-- Only code 0xF decodes to RESET (R101). -/
theorem decodeCommand_eq_reset_iff (w : CommandWord) : decodeCommand w = .reset ↔ opField w = 0xF#4 := by
  unfold decodeCommand
  exact opcode_cases (P := fun op => decodeFields op (aField w) (bField w) = .reset ↔ op = 0xF#4)
    (by intro n hn; interval_cases n <;> simp [decodeFields]) (opField w)

/-- What any instruction does to PH: nothing, unless it is a reset, or a PARSE or its header in a phase that reads. -/
theorem Effect.phase {s t : State} {i : Instr} (h : Effect s i t) :
    t.ph = s.ph ∨ i = .reset ∨ ((i = .parse ∨ ∃ c p, i = .recordHeader c p) ∧ s.ph ≠ .done ∧ s.ph ≠ .error) := by
  cases h with
  | refused _ r hr => left; rcases hr with rfl | rfl | rfl | rfl <;> rfl
  | flushed u h => left; rw [(outAppend_spec h).2.2.2]; rfl
  | serialised _ _ u _ _ _ h => left; rw [(outAppend_spec h).2.2.2]; rfl
  | stillDone _ _ hp => exact .inl hp.symm
  | stillError _ _ hp => exact .inl hp.symm
  | ended hp => exact .inr (.inr ⟨.inl rfl, hp⟩)
  | endedStray v hp => exact .inr (.inr ⟨.inl rfl, hp⟩)
  | received _ b0 b1 pkt rest hi hp =>
    exact .inr (.inr ⟨hi.imp (·.1) fun h => h.1.imp fun _ h => h.imp fun _ h => h.1, hp⟩)
  | truncated _ b0 b1 part hi hp =>
    exact .inr (.inr ⟨hi.imp (·.1) fun h => h.1.imp fun _ h => h.imp fun _ h => h.1, hp⟩)
  | reset => exact .inr (.inl rfl)
  | _ => exact .inl rfl

/-- What any instruction does to FLAGS: it adds the flag of its result, unless it is a reset, which clears them. -/
theorem Effect.flags {s t : State} {i : Instr} (h : Effect s i t) :
    (i = .reset ∧ t.flags = 0#6 ∧ t.status = .ok) ∨ (i ≠ .reset ∧ t.flags = s.flags ||| t.status.flagMask) := by
  cases h with
  | refused _ r hr hi =>
    refine .inr ⟨?_, rfl⟩
    rintro rfl
    rcases hr with rfl | rfl | rfl | rfl <;> simp [possibleResults] at hi
  | wrote _ bs hb =>
    refine .inr ⟨?_, rfl⟩
    rintro rfl
    simp [bytesWritten] at hb
  | flushed u h => right; rw [(outAppend_spec h).2.2.2]; simp
  | serialised _ _ u _ _ _ h => right; rw [(outAppend_spec h).2.2.2]; simp [buildUnit]
  | stillDone _ hi => exact .inr ⟨by rintro rfl; simp at hi, by simp⟩
  | stillError _ hi => exact .inr ⟨by rintro rfl; simp at hi, by simp⟩
  | received _ b0 b1 pkt rest hi => exact .inr ⟨by rintro rfl; simp at hi, by simp [withHeaderBytes]⟩
  | truncated _ b0 b1 part hi => exact .inr ⟨by rintro rfl; simp at hi, by simp [withHeaderBytes]⟩
  | reset => exact .inl ⟨rfl, by simp, by simp⟩
  | _ => right; simp

end Sys2Proof.Machine
end

