-- ==== Sys2Proof/Tests/Slice0.lean ====
section
/-! SUPPORT. The model's own tests. Every expected value is from spec/: the encodings of 30_encoding.md, the vectors
of 95_test_vectors.md (named by their ids), or, for the witnesses at the end, a state that meets a statement's
hypotheses. -/

namespace Sys2Proof.Machine.Test

/-! ### Helpers -/

/-- The step that runs one command word. -/
def given (w : CommandWord) (s : State) : Host.Outcome State Fault Refusal := step { s with host := [.command w] }

/-- The answer is a next state of which `p` holds. -/
def ends (o : Host.Outcome State Fault Refusal) (p : State → Bool) : Bool :=
  match o with
  | .next t => p t
  | .fault _ => false
  | .refused _ => false

/-- Reset, with a small `OBUF_CAP`, as the vectors W40 to W44, E7 and E8 have it. -/
def small : State := State.resetWith ⟨16⟩

/-- Reset, with these bytes on IN and then its end. -/
def withIn (bytes : List Byte) : State := { State.reset with inp := ⟨bytes, .eos⟩ }

/-- A memory that holds these bytes from an address on. -/
def holding (a : Nat) (bytes : List Byte) : Memory := Memory.writeBytes [] a bytes

/-- The bytes of a buffer from an address on, as far as they have been written. -/
def reads (m : Memory) (a : Nat) (bytes : List Byte) : Bool :=
  (List.range bytes.length).all fun j => m.read? (a + j) == bytes[j]?

/-! ### Well-formedness: one ill-formed term for each check -/

theorem test_illformed_wr8 : WellFormed (.wr8 0x100000000) = false := by decide
theorem test_illformed_wr16 : WellFormed (.wr16 0x100000000) = false := by decide
theorem test_illformed_wr24 : WellFormed (.wr24 0x100000000) = false := by decide
theorem test_illformed_wr32 : WellFormed (.wr32 0x100000000) = false := by decide
theorem test_illformed_wrn_source : WellFormed (.wrn 0x100000000 0) = false := by decide
theorem test_illformed_wrn_count : WellFormed (.wrn 0 0x100000000) = false := by decide
theorem test_illformed_setcur : WellFormed (.setcur 0x100000000) = false := by decide
theorem test_illformed_pack_config : WellFormed (.pack 0x100000000 0) = false := by decide
theorem test_illformed_pack_payload : WellFormed (.pack 0 0x100000000) = false := by decide
theorem test_illformed_ser_config : WellFormed (.ser 0x100000000 0) = false := by decide
theorem test_illformed_ser_payload : WellFormed (.ser 0 0x100000000) = false := by decide
theorem test_illformed_unpack_b0 : WellFormed (.unpack 0x100000000 0) = false := by decide
theorem test_illformed_unpack_b1 : WellFormed (.unpack 0 0x100000000) = false := by decide
theorem test_illformed_header_config : WellFormed (.recordHeader 64 0) = false := by decide
theorem test_illformed_header_payload : WellFormed (.recordHeader 0 1024) = false := by decide

/-! ### Decoding: words written out from R99, R100 and R91 (`op` in four bits, then `a` and `b` in 32 bits each) -/

theorem test_decode_illegal0 : decode (.cmd68
    (0b0000#4 ++ 0b00000000000000000000000000000111#32 ++ 0b00000000000000000000000000001001#32)) = .illegal0 := by
  decide
theorem test_decode_wr8 : decode (.cmd68
    (0b0001#4 ++ 0b00000000000000000000000010101011#32 ++ 0b00000000000000000000000000000000#32)) = .wr8 0xAB := by
  decide
theorem test_decode_wr16 : decode (.cmd68
    (0b0010#4 ++ 0b00000000000000000000111000000101#32 ++ 0b00000000000000000000000000000000#32)) = .wr16 0x0E05 := by
  decide
theorem test_decode_wr24 : decode (.cmd68
    (0b0011#4 ++ 0b00000000000100100011010001010110#32 ++ 0b00000000000000000000000000000000#32)) =
    .wr24 0x123456 := by
  decide
theorem test_decode_wr32 : decode (.cmd68
    (0b0100#4 ++ 0b11011110101011011011111011101111#32 ++ 0b00000000000000000000000000000000#32)) =
    .wr32 0xDEADBEEF := by
  decide
theorem test_decode_wrn : decode (.cmd68
    (0b0101#4 ++ 0b00000000000000000000000000000001#32 ++ 0b00000000000000000000000000000101#32)) = .wrn 1 5 := by
  decide
theorem test_decode_setcur : decode (.cmd68
    (0b0110#4 ++ 0b00000000000000000000010001000000#32 ++ 0b00000000000000000000000000000000#32)) = .setcur 1088 := by
  decide
theorem test_decode_flush : decode (.cmd68
    (0b0111#4 ++ 0b00000000000000000000000000000000#32 ++ 0b00000000000000000000000000000000#32)) = .flush := by
  decide
theorem test_decode_pack : decode (.cmd68
    (0b1000#4 ++ 0b00000000000000000000000000000011#32 ++ 0b00000000000000000000001000000101#32)) = .pack 3 517 := by
  decide
theorem test_decode_ser : decode (.cmd68
    (0b1001#4 ++ 0b00000000000000000000000000111111#32 ++ 0b00000000000000000000001111111111#32)) = .ser 63 1023 := by
  decide
theorem test_decode_unpack : decode (.cmd68
    (0b1010#4 ++ 0b00000000000000000000000000001110#32 ++ 0b00000000000000000000000000000101#32)) =
    .unpack 0x0E 0x05 := by
  decide
theorem test_decode_parse : decode (.cmd68
    (0b1011#4 ++ 0b00000000000000000000000000000111#32 ++ 0b00000000000000000000000000001001#32)) = .parse := by
  decide
theorem test_decode_illegalC : decode (.cmd68
    (0b1100#4 ++ 0b00000000000000000000000000000101#32 ++ 0b00000000000000000000000000000101#32)) = .illegalC := by
  decide
theorem test_decode_illegalD : decode (.cmd68
    (0b1101#4 ++ 0b00000000000000000000000000000000#32 ++ 0b00000000000000000000000000000000#32)) = .illegalD := by
  decide
theorem test_decode_illegalE : decode (.cmd68
    (0b1110#4 ++ 0b11111111111111111111111111111111#32 ++ 0b11111111111111111111111111111111#32)) = .illegalE := by
  decide
theorem test_decode_reset : decode (.cmd68
    (0b1111#4 ++ 0b00000000000000000000000000000000#32 ++ 0b00000000000000000000000000000000#32)) = .reset := by
  decide
/-- S1: configSize `000011`, payloadSize `1000000101`. -/
theorem test_decode_header : decode (.hdr16 0b0000111000000101#16) = .recordHeader 3 517 := by decide

/-- R106, K2: `8:00000003:00000205`. -/
theorem test_encode_pack : encode (.pack 3 517) = .cmd68 0x80000000300000205#68 := by decide
/-- S1. -/
theorem test_encode_header : encode (.recordHeader 3 517) = .hdr16 0x0E05#16 := by decide
/-- R143: one byte is no header. -/
theorem test_decode_wire_short : decodeWire [0x08#8] = .error .shortHeader := rfl
theorem test_decode_wire_rest : decodeWire [0x08#8, 0x05#8, 0x11#8] = .ok (.recordHeader 2 5, [0x11#8]) := rfl
theorem test_decode_raw_too_wide : decodeRaw 68 (2 ^ 68) = .error (.tooWide 68) := rfl
theorem test_decode_raw_too_wide_header : decodeRaw 16 (2 ^ 16) = .error (.tooWide 16) := rfl
theorem test_decode_raw_no_such_length : decodeRaw 32 0 = .error (.noSuchLength 32) := rfl
theorem test_decode_table_command : decodeTableWord 72 0x70000000000000000 = some .flush := by decide
theorem test_decode_table_header : decodeTableWord 16 0x0805 = some (.recordHeader 2 5) := by decide

/-! ### One step for each instruction, from the vectors of 95_test_vectors.md -/

/-- W7. -/
theorem test_wr8_last_byte : ends (given 0x1000000EE00000000#68 { State.reset with wcur := 1087 }) (fun t =>
    decide (t.status = .ok ∧ t.wcur = 1088) && reads t.obuf 1087 [0xEE]) = true := by decide
/-- W6, X7: the operand is checked before the room. -/
theorem test_wr8_range_before_room :
    ends (given 0x10000010000000000#68 { State.reset with wcur := 1088 }) (fun t =>
      decide (t.status = .eValueRange ∧ t.wcur = 1088 ∧ t.obuf = [] ∧ t.flags = 0b010000#6)) = true := by decide
/-- W13. -/
theorem test_wr16_big_endian : ends (given 0x20000ABCD00000000#68 { State.reset with wcur := 1086 }) (fun t =>
    decide (t.status = .ok ∧ t.wcur = 1088) && reads t.obuf 1086 [0xAB, 0xCD]) = true := by decide
/-- W12: not even the byte that would fit is written. -/
theorem test_wr16_overflow_writes_nothing :
    ends (given 0x20000ABCD00000000#68 { State.reset with wcur := 1087 }) (fun t =>
      decide (t.status = .eOverflow ∧ t.wcur = 1087 ∧ t.obuf = [] ∧ t.flags = 0b001000#6)) = true := by decide
/-- W14. -/
theorem test_wr24_big_endian : ends (given 0x30012345600000000#68 { State.reset with wcur := 2 }) (fun t =>
    decide (t.status = .ok ∧ t.wcur = 5) && reads t.obuf 2 [0x12, 0x34, 0x56]) = true := by decide
/-- W16. -/
theorem test_wr24_range : ends (given 0x30100000000000000#68 State.reset) (fun t =>
    decide (t.status = .eValueRange ∧ t.wcur = 0 ∧ t.obuf = [])) = true := by decide
/-- W41, `OBUF_CAP` 16. -/
theorem test_wr32_last_word : ends (given 0x4DEADBEEF00000000#68 { small with wcur := 12 }) (fun t =>
    decide (t.status = .ok ∧ t.wcur = 16) && reads t.obuf 12 [0xDE, 0xAD, 0xBE, 0xEF]) = true := by decide
/-- W42, `OBUF_CAP` 16. -/
theorem test_wr32_overflow : ends (given 0x4DEADBEEF00000000#68 { small with wcur := 13 }) (fun t =>
    decide (t.status = .eOverflow ∧ t.wcur = 13 ∧ t.obuf = [])) = true := by decide
/-- W24. -/
theorem test_wrn_payload : ends (given 0x50000000100000005#68 { State.reset with
      wcur := 4, paybuf := holding 0 [0xAA, 0xBB, 0xCC, 0xDD, 0xEE] }) (fun t =>
    decide (t.status = .ok ∧ t.wcur = 9) && reads t.obuf 4 [0xAA, 0xBB, 0xCC, 0xDD, 0xEE]) = true := by decide
/-- W33. -/
theorem test_setcur_capacity : ends (given 0x60000044000000000#68 State.reset) (fun t =>
    decide (t.status = .ok ∧ t.wcur = 1088)) = true := by decide
/-- W34. -/
theorem test_setcur_beyond : ends (given 0x60000044100000000#68 { State.reset with wcur := 7 }) (fun t =>
    decide (t.status = .eOverflow ∧ t.wcur = 7)) = true := by decide
/-- W36, with one unit on OUT already. -/
theorem test_flush_appends : ends (given 0x70000000000000000#68 { State.reset with
      wcur := 4, obuf := holding 0 [0x0E, 0x05, 0x11, 0x90], out := ⟨[[0x5A]], none⟩ }) (fun t =>
    decide (t.status = .ok ∧ t.wcur = 0 ∧ t.wlen = 4 ∧ t.out.bytes = [0x5A, 0x0E, 0x05, 0x11, 0x90])) = true := by
  decide
/-- W37. -/
theorem test_flush_nothing : ends (given 0x70000000000000000#68 { State.reset with
      wlen := 9, out := ⟨[[0x5A]], none⟩ }) (fun t =>
    decide (t.status = .ok ∧ t.wcur = 0 ∧ t.wlen = 0 ∧ t.out = ⟨[[0x5A]], none⟩)) = true := by decide
/-- K2. -/
theorem test_pack_header : ends (given 0x80000000300000205#68 State.reset) (fun t =>
    decide (t.status = .ok ∧ t.hdr = 0x0E05#16)) = true := by decide
/-- K17: the unchecked formula would give 0x0C00. -/
theorem test_pack_too_large : ends (given 0x80000000300000400#68 State.reset) (fun t =>
    decide (t.status = .eFieldTooLarge ∧ t.hdr = 0#16 ∧ t.flags = 0b000100#6)) = true := by decide
/-- E1. -/
theorem test_ser_record : ends (given 0x90000000200000005#68 { State.reset with
      cfgbuf := holding 0 [0x11, 0x90], paybuf := holding 0 [0xAA, 0xBB, 0xCC, 0xDD, 0xEE] }) (fun t =>
    decide (t.status = .ok ∧ t.hdr = 0x0805#16 ∧ t.wlen = 9 ∧ t.wcur = 0 ∧
      t.out.bytes = [0x08, 0x05, 0x11, 0x90, 0xAA, 0xBB, 0xCC, 0xDD, 0xEE])) = true := by decide
/-- E8, `OBUF_CAP` 16. -/
theorem test_ser_overflow : ends (given 0x9000000020000000D#68 { small with hdr := 0x080C#16, wlen := 16 }) (fun t =>
    decide (t.status = .eOverflow ∧ t.hdr = 0x080C#16 ∧ t.wlen = 16 ∧ t.out.units = [] ∧ t.obuf = [] ∧
      t.flags = 0b001000#6)) = true := by decide
/-- U12. -/
theorem test_unpack_lengths : ends (given 0xA000000AA00000055#68 State.reset) (fun t =>
    decide (t.status = .ok ∧ t.b0 = 0xAA#8 ∧ t.b1 = 0x55#8 ∧ t.xsz = 42#6 ∧ t.fsz = 597#10 ∧ t.psz = 639#11)) =
    true := by decide
/-- U15. -/
theorem test_unpack_range : ends (given 0xA0000010000000000#68 { State.reset with b0 := 0x12#8, recv := true }) (fun t =>
    decide (t.status = .eValueRange ∧ t.b0 = 0x12#8 ∧ t.recv = true)) = true := by decide
/-- P8. -/
theorem test_parse_record : ends (given 0xB0000000000000000#68
      (withIn [0x08, 0x05, 0x11, 0x90, 0xAA, 0xBB, 0xCC, 0xDD, 0xEE, 0x77])) (fun t =>
    decide (t.status = .ok ∧ t.got = 7#11 ∧ t.ph = .hdr0 ∧ t.inp.bytes = [0x77] ∧
      t.record? = some ([0x11, 0x90], [0xAA, 0xBB, 0xCC, 0xDD, 0xEE]))) = true := by decide
/-- P6. -/
theorem test_parse_truncated : ends (given 0xB0000000000000000#68
      (withIn [0x08, 0x05, 0x11, 0x90, 0xAA, 0xBB, 0xCC, 0xDD])) (fun t =>
    decide (t.status = .eTruncated ∧ t.hgot = 2#2 ∧ t.psz = 7#11 ∧ t.got = 6#11 ∧ t.recv = false ∧ t.ph = .error ∧
      t.flags = 0b000010#6) && reads t.rxbuf 0 [0x11, 0x90, 0xAA, 0xBB, 0xCC, 0xDD]) = true := by decide
/-- P2, byte-serial. -/
theorem test_serial_parse_clean_end : ends (serialParse (withIn [0x08])) (fun t =>
    decide (t.status = .eos ∧ t.hgot = 1#2 ∧ t.b0 = 0x08#8 ∧ t.xsz = 0#6 ∧ t.ph = .done)) = true := by decide
/-- P9, byte-serial. -/
theorem test_serial_parse_empty_record : ends (serialParse (withIn [0x00, 0x00])) (fun t =>
    decide (t.status = .ok ∧ t.hgot = 2#2 ∧ t.recv = true ∧ t.ph = .hdr0)) = true := by decide
/-- R155, at points of P6, P7, P2 and P9. -/
theorem test_detector : prd .body 0 7 (.byte 0x11) = .goOn ∧ prd .body 6 7 .eos = .truncated ∧
    prd .body 7 7 .eos = .complete ∧ prd .hdr1 0 0 .eos = .cleanEos ∧ prd .body 0 0 (.byte 0) = .complete := by decide
/-- X5. -/
theorem test_reset_registers : ends (given 0xF0000000000000000#68 { State.reset with
      ph := .error, flags := 0b000010#6, got := 50#11, wcur := 3, hdr := 0x0E05#16, inp := ⟨[0x77], .eos⟩,
      out := ⟨[[0x5A]], none⟩ }) (fun t =>
    decide (t.status = .ok ∧ t.ph = .hdr0 ∧ t.flags = 0#6 ∧ t.got = 0#11 ∧ t.wcur = 0 ∧ t.hdr = 0#16 ∧
      t.inp.bytes = [0x77] ∧ t.out.bytes = [0x5A])) = true := by decide
/-- X1. -/
theorem test_illegal0 : given 0x00000000000000000#68 State.reset =
    .next { State.reset with status := .eIllegal, flags := 0b100000#6 } := rfl
/-- X2. -/
theorem test_illegalC : given 0xC0000000500000005#68 State.reset =
    .next { State.reset with status := .eIllegal, flags := 0b100000#6 } := rfl
/-- X3. -/
theorem test_illegalD : given 0xD0000000000000000#68 State.reset =
    .next { State.reset with status := .eIllegal, flags := 0b100000#6 } := rfl
/-- X4. -/
theorem test_illegalE : given 0xEFFFFFFFFFFFFFFFF#68 State.reset =
    .next { State.reset with status := .eIllegal, flags := 0b100000#6 } := rfl
/-- P9, the header placed where the next step takes it. -/
theorem test_header_empty_record : ends (step (State.reset.withFetchWord 16 0x0000)) (fun t =>
    decide (t.status = .ok ∧ t.hgot = 2#2 ∧ t.recv = true ∧ t.inp.bytes = [])) = true := by decide
/-- P3, in the same way. -/
theorem test_header_truncated : ends (step (State.reset.withFetchWord 16 0x0805)) (fun t =>
    decide (t.status = .eTruncated ∧ t.b0 = 0x08#8 ∧ t.b1 = 0x05#8 ∧ t.psz = 7#11 ∧ t.got = 0#11 ∧ t.ph = .error)) =
    true := by decide
/-- R73. -/
theorem test_load_beyond_buffer : step { State.reset with host := [.load .cfg 63 0x11] } =
    .refused (.hostAddressBeyondBuffer .cfg 63) := rfl
/-- R243. -/
theorem test_attach_in_done : step { State.reset with ph := .done, host := [.attach ⟨[], .eos⟩] } =
    .refused .attachOutsideHdr0 := rfl
/-- R254: the first address at which the buffer read port has no byte, and the one before. -/
theorem test_host_read : State.reset.hostRead false 1088 = none ∧
    { State.reset with rxbuf := [(1085, 0x33#8)] }.hostRead true 1085 = some 0x33#8 ∧
    State.reset.hostRead true 1086 = none := by decide
/-- R41. -/
theorem test_read_reg : { State.reset with status := .eIllegal }.readReg 0#5 = 6#32 ∧
    { State.reset with ph := .error }.readReg 2#5 = 4#32 ∧ { State.reset with wcur := 1088 }.readReg 13#5 = 1088#32 ∧
    State.reset.readReg 31#5 = 0#32 := by decide

/-! ### Witnesses: for each statement with hypotheses, a state and operands that meet all of them together

Named after the statement; the number after a name counts its clauses. -/

/-- Reset, with the sources of E1. -/
def sources : State :=
  { State.reset with cfgbuf := holding 0 [0x11, 0x90], paybuf := holding 0 [0xAA, 0xBB, 0xCC, 0xDD, 0xEE] }

/-- The largest record. -/
def largest : Record := (List.replicate 63 0x11#8, List.replicate 1023 0xAA#8)

theorem largest_sizes : largest.1.length = 63 ∧ largest.2.length = 1023 :=
  ⟨List.length_replicate, List.length_replicate⟩

/-- One byte to flush and a sink that takes none. -/
def stalled : State := { State.reset with wcur := 1, out := ⟨[], some 0⟩ }

/-- A state far from reset: the cursor at the end, a record delivered (P13), an error behind it, a sink that takes
three more bytes. -/
def used : State :=
  { State.reset with
    wcur := 1088
    obuf := [(0, 0x77#8), (1087, 0x5A#8)]
    cfgbuf := [(62, 0x11#8)]
    paybuf := [(1022, 0xAA#8)]
    hdr := 0x0E05#16
    wlen := 1088
    b0 := 0x04#8
    hgot := 2#2
    xsz := 1#6
    psz := 1#11
    got := 1#11
    recv := true
    rxbuf := [(0, 0x99#8), (1085, 0x33#8)]
    status := .eOverflow
    flags := 0b001000#6
    inp := ⟨[0x00], .eos⟩
    out := ⟨[[0x00, 0x00]], some 3⟩
    draw := 1 }

/-- The same after the end of its stream. -/
def usedDone : State :=
  { used with ph := .done, recv := false, status := .eos, flags := 0b001001#6, hgot := 1#2, inp := ⟨[], .eos⟩ }

/-- The same after a truncation: the header declared 1 byte and none came. -/
def usedError : State :=
  { used with ph := .error, recv := false, status := .eTruncated, flags := 0b001010#6, got := 0#11, inp := ⟨[], .eos⟩ }

theorem witness_used_Inv : Inv used where
  config := by decide
  cursor := by decide
  unitLength := by decide
  obuf := by constructor <;> decide
  cfgbuf := by constructor <;> decide
  paybuf := by constructor <;> decide
  rxbuf := by constructor <;> decide
  sizes := by decide
  counts := by decide
  phase := by decide
  headerOfRecord := by decide
  bytesOfRecord := fun _ => by decide
  doneFlag := by decide
  errorFlag := by decide
  resultFlag := by decide
  noEmptyUnit := by decide

theorem witness_usedDone_Inv : Inv usedDone :=
  { witness_used_Inv with
    counts := by decide
    phase := by decide
    headerOfRecord := by decide
    bytesOfRecord := by decide
    doneFlag := by decide
    errorFlag := by decide
    resultFlag := by decide }

theorem witness_usedError_Inv : Inv usedError :=
  { witness_used_Inv with
    counts := by decide
    phase := by decide
    headerOfRecord := by decide
    bytesOfRecord := by decide
    doneFlag := by decide
    errorFlag := by decide
    resultFlag := by decide }

theorem witness_DecodeEncodeRoundTrip : WellFormed (.wrn (2 ^ 32 - 1) (2 ^ 32 - 1)) = true ∧
    WellFormed (.recordHeader 63 1023) = true := by decide
theorem witness_IgnoredFieldsHaveNoEffect_1 : 0x6#4 ∈ [0x1#4, 0x2#4, 0x3#4, 0x4#4, 0x6#4] := by decide
theorem witness_IgnoredFieldsHaveNoEffect_2 : 0xF#4 ∈ [0x0#4, 0x7#4, 0xB#4, 0xC#4, 0xD#4, 0xE#4, 0xF#4] := by decide
theorem witness_IgnoredFieldsHaveNoEffect_3 :
    encode (decodeCommand 0xB0000000700000009#68) = .cmd68 0xB0000000000000000#68 ∧
    opField 0xB0000000700000009#68 ∈ [0x0#4, 0x7#4, 0xB#4, 0xC#4, 0xD#4, 0xE#4, 0xF#4] ∧
    encode (decodeCommand 0x10000000112345678#68) = .cmd68 0x10000000100000000#68 ∧
    opField 0x10000000112345678#68 ∈ [0x1#4, 0x2#4, 0x3#4, 0x4#4, 0x6#4] := by decide
theorem witness_EveryHeaderMeansOnePair : 63 ≤ 63 ∧ 1023 ≤ 1023 ∧ 63 * 1024 + 1023 = (0xFFFF#16).toNat := by decide
theorem witness_HeaderFormulasBothWays : 63 ≤ 63 ∧ 1023 ≤ 1023 := by decide
theorem witness_StepRunsTheCommand_1 :
    { used with host := [.command 0x90000003F000003FF#68] }.host = .command 0x90000003F000003FF#68 :: [] := rfl
theorem witness_StepRunsTheCommand_2 : WellFormed (.ser 63 1023) = true ∧
    encode (.ser 63 1023) = .cmd68 0x90000003F000003FF#68 ∧
    { used with host := [.command 0x90000003F000003FF#68] }.host = .command 0x90000003F000003FF#68 :: [] := by decide
theorem witness_StepRunsTheCommand_3 : used.host = [] := rfl
theorem witness_ParseRunsTheHeaderOnTheWire :
    let s := { used with host := [.command 0xBFFFFFFFFFFFFFFFF#68], inp := ⟨[0xFF, 0xFF], .never⟩ }
    s.host = .command 0xBFFFFFFFFFFFFFFFF#68 :: [] ∧ opField 0xBFFFFFFFFFFFFFFFF#68 = 0xB#4 ∧ s.ph = .hdr0 ∧
      s.inp.bytes = 0xFF#8 :: 0xFF#8 :: [] := by decide
theorem witness_PlacedWordRunsNext : 16 < 17 ∧ 2 ^ 68 - 1 < 2 ^ 68 ∧ 16 ≤ 16 ∧ 2 ^ 16 - 1 < 2 ^ 16 := by decide

/-- One past the largest operand of WR8, WR16 and WR24; WR32 has none, since the field itself ends there. -/
theorem witness_FixedWidthWritesStoreBigEndian_1 : WellFormed (.wr8 0x100) = true ∧ 2 ^ (8 * 1) ≤ 0x100 ∧
    WellFormed (.wr16 0x10000) = true ∧ 2 ^ (8 * 2) ≤ 0x10000 ∧
    WellFormed (.wr24 0x1000000) = true ∧ 2 ^ (8 * 3) ≤ 0x1000000 := by decide
theorem witness_FixedWidthWritesStoreBigEndian_2 : WellFormed (.wr32 0xFFFFFFFF) = true ∧ 0xFFFFFFFF < 2 ^ (8 * 4) ∧
    { used with wcur := 1085 }.cfg.obufCap < { used with wcur := 1085 }.wcur + 4 := by decide
theorem witness_FixedWidthWritesStoreBigEndian_3 : WellFormed (.wr32 0xFFFFFFFF) = true ∧ 0xFFFFFFFF < 2 ^ (8 * 4) ∧
    { used with wcur := 1084 }.wcur + 4 ≤ { used with wcur := 1084 }.cfg.obufCap := by decide
theorem witness_RawCopyCopiesTheSource_1 : 1 < 2 ∧ (0 = 0 ∧ 63 < 64) ∧ (1 = 1 ∧ 1023 < 1024) := by decide
theorem witness_RawCopyCopiesTheSource_2 : (1 = 1 ∧ 1023 ≤ 1023 ∧ Buf.paybuf = .paybuf) ∧
    { used with wcur := 66 }.cfg.obufCap < { used with wcur := 66 }.wcur + 1023 ∧
    (0 = 0 ∧ 63 ≤ 63 ∧ Buf.cfgbuf = .cfgbuf) ∧
    { used with wcur := 1026 }.cfg.obufCap < { used with wcur := 1026 }.wcur + 63 := by decide
theorem witness_RawCopyCopiesTheSource_3 : (1 = 1 ∧ 1023 ≤ 1023 ∧ Buf.paybuf = .paybuf) ∧
    { used with wcur := 65 }.wcur + 1023 ≤ { used with wcur := 65 }.cfg.obufCap ∧
    (0 = 0 ∧ 63 ≤ 63 ∧ Buf.cfgbuf = .cfgbuf) ∧
    { used with wcur := 1025 }.wcur + 63 ≤ { used with wcur := 1025 }.cfg.obufCap := by decide
/-- R44, R249: a source byte that nothing has written is copied as the free byte of this draw. -/
theorem witness_RawCopyCopiesTheSource_free : given 0x50000000100000001#68 State.reset =
    .next { State.reset with wcur := 1, obuf := [(0, Config.freeByte 0 .paybuf 0)] } := rfl
theorem witness_SetcurSetsTheCursor : used.cfg.obufCap < 1089 ∧ 1088 ≤ used.cfg.obufCap := by decide
theorem witness_FlushAppendsTheWrittenBytes : sinkTakes 1088 { used with out := ⟨[], some 1088⟩ } := by
  intro k h; cases h; decide
/-- A write of each kind of length, and a buffer filled to the end from cursor 0. -/
theorem witness_WriteSequencesConcatenate :
    (runWrites [.wr8 0x01, .wrn 1 5, .wr24 0x123456] sources).isSome = true ∧
    (State.resetWith ⟨4⟩).wcur = 0 ∧
    (runWrites [.wr16 0x0102, .wr16 0x0304] (State.resetWith ⟨4⟩)).map (fun r => r.1.length) =
      some (State.resetWith ⟨4⟩).cfg.obufCap := by decide

theorem witness_PackChecksAndPacks : 63 < 64 ∧ 1023 < 1024 ∧ 63 ≤ 63 ∧ 1023 ≤ 1023 := by decide
theorem witness_SerAppendsOneRecord_1 : 63 < 64 ∧ 1023 < 1024 := by decide
theorem witness_SerAppendsOneRecord_2 : 2 ≤ 63 ∧ 13 ≤ 1023 ∧ small.cfg.obufCap < 2 + 2 + 13 := by decide
theorem witness_SerAppendsOneRecord_3 : 63 ≤ 63 ∧ 1023 ≤ 1023 ∧ 2 + 63 + 1023 ≤ used.cfg.obufCap ∧
    sinkTakes (2 + 63 + 1023) { used with out := ⟨[], some 1088⟩ } :=
  ⟨by decide, by decide, by decide, by intro k h; cases h; decide⟩
theorem witness_SerIsItsSequence : 63 ≤ 63 ∧ 1023 ≤ 1023 ∧ 2 + 63 + 1023 ≤ used.cfg.obufCap := by decide
theorem witness_SerThenParseRoundTrip_1 : ends (exec (.ser 2 5) sources) (fun t => decide (t.status = .ok)) = true := by
  decide
theorem witness_SerThenParseRoundTrip_2 :
    (withIn ([0x08, 0x05, 0x11, 0x90, 0xAA, 0xBB, 0xCC, 0xDD, 0xEE] ++ [0x77])).ph = .hdr0 := rfl
theorem witness_PackAndUnpackAreInverse : 63 ≤ 63 ∧ 1023 ≤ 1023 ∧ 0xFF ≤ 0xFF := by decide
theorem witness_SerIgnoresUnflushedWrites :
    ends (exec (.ser 2 5) sources) (fun t => decide (t.status = .ok)) = true := by decide

theorem witness_UnpackDecodesTheHeader : 0xFF < 0x100 ∧ 0xFF ≤ 0xFF := by decide
theorem witness_ParseDeliversTheRecord :
    { used with inp := ⟨largest.wire ++ [0x77], .eos⟩ }.ph = .hdr0 ∧ largest.fits ∧
    { used with inp := ⟨largest.wire ++ [0x77], .eos⟩ }.inp.bytes = largest.wire ++ [0x77] :=
  ⟨rfl, ⟨largest_sizes.1.le, largest_sizes.2.le⟩, rfl⟩
theorem witness_ParseFindsTheCleanEnd : used.ph = .hdr0 ∧ used.inp.ending = .eos ∧ used.inp.bytes.length < 2 := by
  decide
theorem witness_ParseReportsTheTruncation :
    (withIn [0x04, 0x00]).ph = .hdr0 ∧ (withIn [0x04, 0x00]).inp.ending = .eos ∧
    (withIn [0x04, 0x00]).inp.bytes = 0x04#8 :: 0x00#8 :: [] ∧
    ([] : List Byte).length < (0x04#8).toNat / 4 + ((0x04#8).toNat % 4 * 256 + (0x00#8).toNat) := by decide
/-- X9 and X11: a PARSE in ERROR, a SER in DONE. -/
theorem witness_ParseAfterTheStopReadsNothing : usedDone.ph = .done ∧ usedError.ph = .error ∧
    ends (exec (.ser 0 0) usedDone) (fun t => decide (t.status = .ok)) = true ∧
    ends (given 0xB0000000700000009#68 usedError) (fun t => decide (t.status = .eTruncated)) = true := by decide
theorem witness_HeaderOnTheWireReceivesItsPacket_1 :
    63 ≤ 63 ∧ 1023 ≤ 1023 ∧ used.ph = .hdr0 ∧ largest.1.length = 63 ∧ largest.2.length = 1023 ∧
    { used with inp := ⟨largest.1 ++ largest.2 ++ [0x77], .never⟩ }.inp.bytes = largest.1 ++ largest.2 ++ [0x77] :=
  ⟨by decide, by decide, rfl, largest_sizes.1, largest_sizes.2, rfl⟩
theorem witness_HeaderOnTheWireReceivesItsPacket_2 :
    (withIn []).inp.bytes.length < 1 + 0 ∧ (withIn []).inp.ending = .eos ∧ (withIn []).ph = .hdr0 := by decide
theorem witness_ParseWaitsExactlyWhenInputStalls :
    exec .parse { State.reset with inp := ⟨[0x08], .never⟩ } = .fault .inputStalled ∧
    exec .parse { State.reset with inp := ⟨[0x04, 0x00], .never⟩ } = .fault .inputStalled := ⟨rfl, rfl⟩
theorem witness_BytesConsumedByParse :
    ends (exec .parse (withIn [0x04, 0x00, 0x99, 0x00])) (fun t => decide (t.status = .ok)) = true ∧
    ends (exec .parse used) (fun t => decide (t.status = .eos)) = true ∧
    ends (exec .parse (withIn [0x04, 0x00])) (fun t => decide (t.status = .eTruncated)) = true ∧
    ends (exec .parse usedDone) (fun t => decide (t.status = .eos)) = true := by decide
theorem witness_SerialParseAgreesWithParse : used.ph = .hdr0 ∧ usedDone.ph = .done ∧ usedError.ph = .error := by decide
/-- P6, P7 and P2 where the detector decides: complete, clean end, truncated, and one more byte. -/
theorem witness_DetectorDecidesEachStep :
    inNext { usedError with ph := .body } = some (.eos, { usedError with ph := .body }) ∧
    prd .body usedError.got.toNat usedError.psz.toNat .eos = .truncated ∧
    inNext { used with ph := .body } = some (.byte 0x00, { used with ph := .body, inp := ⟨[], .eos⟩ }) ∧
    used.got.toNat ≤ used.psz.toNat ∧ prd .body used.got.toNat used.psz.toNat (.byte 0x00) = .complete ∧
    inNext { State.reset with ph := .hdr1 } = some (.eos, { State.reset with ph := .hdr1 }) ∧
    prd .hdr1 0 0 .eos = .cleanEos ∧ prd .hdr0 used.got.toNat used.psz.toNat (.byte 0x00) = .goOn := by decide
/-- R149: a record that is complete ends although the source gives no token; R151: one that is not waits. -/
theorem witness_DetectorDecidesEachStep_noToken :
    inNext { used with ph := .body, inp := ⟨[], .never⟩ } = none ∧
    prd .body used.got.toNat used.psz.toNat .eos = .complete ∧
    ¬ (Phase.body = .body ∧ usedError.got = usedError.psz) ∧ usedError.got.toNat ≤ usedError.psz.toNat ∧
    serialStep { usedError with ph := .body, inp := ⟨[], .never⟩ } = .waits := by decide
/-- P2 and R148: a byte taken in BODY, and the second header byte. -/
theorem witness_DetectorDecidesEachStep_byte :
    prd .body usedError.got.toNat usedError.psz.toNat (.byte 0x99) = .goOn ∧
    inNext { usedError with ph := .body, inp := ⟨[0x99], .eos⟩ } =
      some (.byte 0x99, { usedError with ph := .body, inp := ⟨[], .eos⟩ }) ∧
    prd .hdr1 used.got.toNat used.psz.toNat (.byte 0x00) = .goOn ∧
    inNext { used with ph := .hdr1 } = some (.byte 0x00, { used with ph := .hdr1, inp := ⟨[], .eos⟩ }) := by decide
/-- No record, with an empty tail and with one byte; then two records, the largest among them, and a part of a
third. -/
theorem witness_WholeStreamParsesToItsRecords_1 :
    { used with inp := ⟨([].map Record.wire).flatten ++ [], .eos⟩ }.inp = ⟨([].map Record.wire).flatten ++ [], .eos⟩ ∧
    used.inp = ⟨([].map Record.wire).flatten ++ [0x00#8], .eos⟩ ∧ used.ph = .hdr0 := ⟨rfl, rfl, rfl⟩
theorem witness_WholeStreamParsesToItsRecords_2 : (∀ r ∈ [largest, ([], [])], r.fits) ∧ used.ph = .hdr0 ∧
    { used with inp := ⟨([largest, ([], [])].map Record.wire).flatten ++ [0x00, 0x01], .eos⟩ }.inp =
      ⟨([largest, ([], [])].map Record.wire).flatten ++ [0x00#8, 0x01#8], .eos⟩ ∧
    ([] : List Byte).length < (0x00#8).toNat / 4 + ((0x00#8).toNat % 4 * 256 + (0x01#8).toNat) := by
  refine ⟨?_, rfl, rfl, by decide⟩
  intro r h
  rcases List.mem_cons.1 h with rfl | h
  · exact ⟨largest_sizes.1.le, largest_sizes.2.le⟩
  · cases List.mem_singleton.1 h; exact ⟨by decide, by decide⟩
theorem witness_PhaseTransitions :
    ends (exec (.unpack 0xFF 0xFF) usedError) (fun t => decide (t.ph = .error)) = true ∧
    ends (exec .parse used) (fun t => decide (t.ph = .done)) = true ∧
    ends (exec .parse usedDone) (fun t => decide (t.ph = .done)) = true ∧
    ends (exec .parse usedError) (fun t => decide (t.ph = .error)) = true ∧
    ends (exec .reset usedError) (fun t => decide (t.ph = .hdr0)) = true := by decide
theorem witness_NoRecordIsFabricated :
    ends (exec .parse (withIn [0x04, 0x00, 0x99])) (fun t => t.recv) = true ∧
    ends (exec (.setcur 0) used) (fun t => t.recv) = true := by decide

theorem witness_HardwareResetIsTheSameTransition : opField 0xF0000000700000009#68 = 0xF#4 := by decide
theorem witness_IllegalCodesChangeNothingElse : opField 0xE0000000700000009#68 ∈ [0x0#4, 0xC#4, 0xD#4, 0xE#4] := by
  decide
theorem witness_ResultsEachOperationCanEndWith :
    ends (exec (.wr8 0x100) used) (fun t => decide (t.status = .eValueRange)) = true := by decide
theorem witness_PriorityOfResults : operandResult (.ser 64 2000) = some .eFieldTooLarge ∧ usedDone.ph = .done ∧
    usedError.ph = .error ∧ ends (exec (.wr32 0xFFFFFFFF) used) (fun t => decide (t.status = .eOverflow)) = true := by
  decide
theorem witness_RefusedOperationsArePrecise :
    ends (exec (.pack 64 0) used) (fun t => decide (t.status = .eFieldTooLarge)) = true ∧
    ends (exec (.setcur 1089) used) (fun t => decide (t.status = .eOverflow)) = true ∧
    ends (exec (.unpack 0 0x100) used) (fun t => decide (t.status = .eValueRange)) = true ∧
    ends (exec .illegalD used) (fun t => decide (t.status = .eIllegal)) = true ∧
    ends (exec .parse used) (fun t => decide (t.status = .eos)) = true ∧
    ends (exec .parse (withIn [0x04, 0x00])) (fun t => decide (t.status = .eTruncated)) = true := by decide
theorem witness_FlagsAreStickyAndUnread_1 :
    ends (exec .illegal0 used) (fun t => t.flags.getLsbD 5) = true ∧
    exec .flush stalled = .fault .outputStalled := ⟨by decide, rfl⟩
theorem witness_FlagsAreStickyAndUnread_2 : resetIsNext { used with host := [.hardReset] } ∧
    ends (step { used with host := [.hardReset] }) (fun _ => true) = true ∧
    resetIsNext { used with host := [.command 0xF0000000000000000#68] } ∧
    ends (given 0x60000044000000000#68 used) (fun t => t.flags.getLsbD 3) = true ∧
    used.flags.getLsbD 3 = true :=
  ⟨.inl rfl, by decide, .inr ⟨_, rfl, by decide⟩, by decide, by decide⟩
theorem witness_TwoSidesShareOnlyTheResult : writerSide (.ser 0 0) = true ∧ parserSide .parse = true ∧
    SameWriterSide used { used with ph := .error, inp := ⟨[], .never⟩ } ∧
    SameParserSide used { used with wcur := 0, out := ⟨[], none⟩ } ∧
    ends (exec (.ser 0 0) used) (fun _ => true) = true ∧ ends (exec .parse used) (fun _ => true) = true ∧
    SameWriterSide stalled { stalled with ph := .error } ∧ exec .flush stalled = .fault .outputStalled ∧
    SameParserSide { used with inp := ⟨[], .never⟩ } { used with inp := ⟨[], .never⟩, wcur := 0 } ∧
    exec .parse { used with inp := ⟨[], .never⟩ } = .fault .inputStalled :=
  ⟨rfl, rfl, ⟨⟨rfl, rfl, rfl, rfl⟩, ⟨rfl, rfl⟩, rfl, rfl, rfl⟩,
    ⟨⟨rfl, rfl, rfl, rfl, rfl, rfl, rfl, rfl, rfl, rfl⟩, rfl⟩, by decide, by decide,
    ⟨⟨rfl, rfl, rfl, rfl⟩, ⟨rfl, rfl⟩, rfl, rfl, rfl⟩, rfl,
    ⟨⟨rfl, rfl, rfl, rfl, rfl, rfl, rfl, rfl, rfl, rfl⟩, rfl⟩, rfl⟩

theorem witness_InvariantAfterReset : Config.wf ⟨4⟩ := by decide
theorem witness_EveryStepKeepsTheInvariant_1 : Inv used ∧
    ends (given 0x60000044000000000#68 used) (fun t => decide (t.wcur = 1088)) = true :=
  ⟨witness_used_Inv, by decide⟩
theorem witness_EveryStepKeepsTheInvariant_2 : Inv usedError ∧
    ends (given 0xB0000000000000000#68 usedError) (fun t => decide (t.ph = .error)) = true :=
  ⟨witness_usedError_Inv, by decide⟩
theorem witness_EveryStepKeepsTheInvariant_3 : Inv usedDone ∧
    ends (given 0xF0000000000000000#68 usedDone) (fun t => decide (t.ph = .hdr0)) = true :=
  ⟨witness_usedDone_Inv, by decide⟩
theorem witness_GotStaysWithinThePacket : Inv used ∧ used.got.toNat ≤ used.psz.toNat ∧
    ends (step used) (fun _ => true) = true ∧ used.host = [] := ⟨witness_used_Inv, by decide, by decide, rfl⟩
theorem witness_OutputGrowsByWholeUnits :
    ends (given 0x90000000000000001#68 used) (fun t => decide (t.status = .ok)) = true ∧
    ends (exec (.ser 64 0) used) (fun t => decide (t.status ≠ .ok)) = true := by decide
theorem witness_BufferContentsNeverSteerTheBlock :
    SameButBufferContents used { used with rxbuf := [], obuf := [], out := ⟨[[0x33, 0x33]], some 3⟩ } ∧
    ends (exec (.ser 0 1) used) (fun _ => true) = true ∧
    SameButBufferContents stalled { stalled with obuf := [(0, 0x77#8)] } ∧
    exec .flush stalled = .fault .outputStalled :=
  ⟨⟨rfl, rfl, rfl, rfl, rfl, rfl, rfl, rfl, rfl, rfl, rfl, rfl, rfl, rfl, rfl, rfl, rfl, rfl, rfl⟩, by decide,
    ⟨rfl, rfl, rfl, rfl, rfl, rfl, rfl, rfl, rfl, rfl, rfl, rfl, rfl, rfl, rfl, rfl, rfl, rfl, rfl⟩, rfl⟩
theorem witness_OperationsEndUnlessAStreamStalls : used.inp.ending = .eos ∧ State.reset.out.accepts = none ∧
    exec .flush stalled = .fault .outputStalled ∧
    exec (.ser 0 0) { used with out := ⟨[], some 1⟩ } = .fault .outputStalled := ⟨rfl, rfl, rfl, rfl⟩
theorem witness_RepeatableOperations :
    ends (exec (.unpack 0xFF 0xFF) used) (fun t => decide (t.psz = 1086#11)) = true ∧
    ends (exec (.pack 63 1023) used) (fun t => decide (t.hdr = 0xFFFF#16)) = true ∧
    ends (exec (.setcur 1088) used) (fun t => decide (t.wcur = 1088)) = true ∧
    ends (exec .reset used) (fun t => decide (t.wcur = 0)) = true := by decide
theorem witness_StepMakesOneMove_reset : resetIsNext { used with host := [.command 0xF0000000000000000#68] } ∧
    resetIsNext { used with host := [.hardReset] } ∧
    ends (given 0xF0000000000000000#68 used) (fun t => decide (t.draw = used.draw + 1)) = true :=
  ⟨.inr ⟨_, rfl, by decide⟩, .inl rfl, by decide⟩
/-- A FLUSH in HDR0 with no flag set: the next state has WCUR 0, FLAGS 0 and PH HDR0, and the draw is the old one. -/
theorem witness_StepMakesOneMove_flush : ¬ resetIsNext { State.reset with host := [.command 0x70000000000000000#68] } ∧
    ends (given 0x70000000000000000#68 State.reset) (fun t =>
      decide (t.wcur = 0 ∧ t.flags = 0#6 ∧ t.ph = .hdr0 ∧ t.draw = State.reset.draw)) = true := by
  refine ⟨?_, by decide⟩
  rintro (h | ⟨w, h, hw⟩)
  · cases h
  · cases h
    exact absurd hw (by decide)
theorem witness_StatusPortReadsTheRegisters : { used with wlen := 2 ^ 32 - 1 }.wlen < 2 ^ 32 ∧ used.wcur < 2 ^ 32 ∧
    14 ≤ (14#5).toNat ∧ 14 ≤ (31#5).toNat := by decide
theorem witness_HostLoadWritesOneByte : 62 < used.cfg.capacity Source.cfg.buf ∧
    1022 < used.cfg.capacity Source.pay.buf ∧ used.cfg.capacity Source.cfg.buf ≤ 63 ∧
    used.cfg.capacity Source.pay.buf ≤ 1023 ∧
    { used with host := [.load .pay 1022 0x11] }.host = .load .pay 1022 0x11 :: [] := by decide
theorem witness_AttachReplacesTheInput :
    { used with host := [.attach ⟨[], .never⟩] }.host = .attach ⟨[], .never⟩ :: [] ∧ used.ph = .hdr0 ∧
    usedDone.ph ≠ .hdr0 := by decide

theorem witness_HeaderOnTheWireCompletes_1 : 63 ≤ 63 ∧ 1023 ≤ 1023 ∧ used.ph = .hdr0 ∧
    63 + 1023 ≤ { used with inp := ⟨largest.1 ++ largest.2, .never⟩ }.inp.bytes.length :=
  ⟨by decide, by decide, rfl, by simp [largest_sizes]⟩
theorem witness_HeaderOnTheWireCompletes_2 : 0 ≤ 63 ∧ 0 ≤ 1023 ∧ usedDone.ph = .done ∧ usedError.ph = .error := by
  decide
theorem witness_BufferReadPortShowsTheBytes :
    1087 < used.cfg.obufCap ∧ used.obuf.read? 1087 = some 0x5A ∧ 1085 < 1086 ∧ used.rxbuf.read? 1085 = some 0x33 ∧
    1 < used.cfg.obufCap ∧ used.obuf.read? 1 = none ∧ used.rxbuf.read? 1 = none ∧ used.cfg.obufCap ≤ 1088 := by
  decide

theorem witness_FutureCommandsAreNoState :
    ends (exec (.ser 0 1) { used with host := [.hardReset] }) (fun t => decide (t.status = .ok)) = true ∧
    exec .flush { stalled with host := [.hardReset] } = .fault .outputStalled := ⟨by decide, rfl⟩

end Sys2Proof.Machine.Test
end

section
/-! A step as one move of the host: what it leaves of the parameter, the draw and the moves, and which instruction it
runs. -/

namespace Sys2Proof.Machine

/-! ### The parameter, the draw and the moves -/

/-- Putting bytes on OUT touches neither the parameter, nor the draw, nor the moves (R70). -/
theorem modelKept_of_outAppend {u : List Byte} {s t : State} (h : outAppend u s = some t) : ModelKept s t := by
  obtain ⟨-, -, -, ht⟩ := outAppend_spec h
  rw [ht]
  exact ⟨rfl, rfl, rfl⟩

/-- An operation other than RESET leaves the parameter, the draw and the moves (R6, R20, R44). -/
theorem Effect.modelKept {s t : State} {i : Instr} (h : Effect s i t) (hi : i ≠ .reset) : ModelKept s t := by
  cases h with
  | flushed u hu =>
    obtain ⟨hcfg, hdraw, hhost⟩ := modelKept_of_outAppend hu
    exact ⟨hcfg, hdraw, hhost⟩
  | serialised c p u _ _ _ hu =>
    obtain ⟨hcfg, hdraw, hhost⟩ := modelKept_of_outAppend hu
    exact ⟨hcfg, hdraw, hhost⟩
  | reset => exact absurd rfl hi
  | _ => simp [ModelKept, withHeaderBytes]

/-- RESET ends in one state only (R190). -/
theorem Effect.eq_of_reset {s t : State} (h : Effect s .reset t) : t = s.resetBlock.finish .ok := by
  cases h with
  | refused _ r hr hi =>
    obtain rfl : r = .ok := by simpa [possibleResults] using hi
    simp at hr
  | wrote _ bs hb => simp [bytesWritten] at hb
  | stillDone _ hi => simp at hi
  | stillError _ hi => simp at hi
  | received _ b0 b1 pkt rest hi => simp at hi
  | truncated _ b0 b1 part hi => simp at hi
  | reset => rfl

/-! ### Which moves are a reset -/

theorem not_resetIsNext_nil {s : State} (h : s.host = []) : ¬ resetIsNext s := by
  simp [resetIsNext, h]

theorem resetIsNext_cons_iff {s : State} {m : HostMove} {rest : List HostMove} (h : s.host = m :: rest) :
    resetIsNext s ↔ m = .hardReset ∨ ∃ w, m = .command w ∧ decodeCommand w = .reset := by
  simp [resetIsNext, h, decodeCommand_eq_reset_iff]

/-! ### What a step leaves of the model's own fields -/

/-- A step whose move is a reset leaves the parameter, the draw and the moves as the reset of the block does, which
makes a new draw (R190, R242). -/
theorem step_modelKept_of_reset {s t : State} (h : step s = .next t) (hr : resetIsNext s) :
    ModelKept (s.setHost s.host.tail).resetBlock t := by
  rcases step_cases h with ⟨e, -⟩ | ⟨w, rest, e, he⟩ | ⟨src, a, v, rest, e, -, -⟩ | ⟨stream, rest, e, -, -⟩ |
    ⟨rest, e, rfl⟩
  · exact absurd hr (not_resetIsNext_nil e)
  · have hw : decodeCommand w = .reset := by simpa [resetIsNext_cons_iff e] using hr
    rw [hw] at he
    rw [he.eq_of_reset, e]
    exact ⟨rfl, rfl, rfl⟩
  · simp [resetIsNext_cons_iff e] at hr
  · simp [resetIsNext_cons_iff e] at hr
  · rw [e]
    exact ⟨rfl, rfl, rfl⟩

/-- A step whose move is no reset takes the move away and leaves the parameter and the draw (R7, R44). -/
theorem step_modelKept_of_not_reset {s t : State} (h : step s = .next t) (hr : ¬ resetIsNext s) :
    ModelKept (s.setHost s.host.tail) t := by
  rcases step_cases h with ⟨e, rfl⟩ | ⟨w, rest, e, he⟩ | ⟨src, a, v, rest, e, -, rfl⟩ | ⟨stream, rest, e, -, rfl⟩ |
    ⟨rest, e, -⟩
  · simp [ModelKept, e]
  · have hw : decodeCommand w ≠ .reset := by simpa [resetIsNext_cons_iff e] using hr
    rw [e]
    exact he.modelKept hw
  · simp [ModelKept, e]
  · simp [ModelKept, e]
  · simp [resetIsNext_cons_iff e] at hr

/-- Settles O51: by whether the move is a reset, from what a step leaves of the model's own fields in either case. -/
theorem stepMakesOneMove : Obligations.StepMakesOneMove := by
  unfold Obligations.StepMakesOneMove
  intro s t h
  by_cases hr : resetIsNext s
  · obtain ⟨hcfg, hdraw, hhost⟩ := step_modelKept_of_reset h hr
    exact ⟨hcfg, hhost, fun _ => hdraw, fun hn => absurd hr hn⟩
  · obtain ⟨hcfg, hdraw, hhost⟩ := step_modelKept_of_not_reset h hr
    exact ⟨hcfg, hhost, fun hy => absurd hy hr, fun _ => hdraw⟩

/-! ### The command of a step -/

theorem step_of_idle {s : State} (h : s.host = []) : step s = .next s := by
  simp [step, h]

theorem step_of_command {s : State} {w : CommandWord} {rest : List HostMove} (h : s.host = .command w :: rest) :
    step s = exec (decodeCommand w) (s.setHost rest) := by
  simp [step, h, performMove]

/-- The command word that encodes a well-formed instruction decodes to it (R99, R100). -/
theorem decodeCommand_of_encode {i : Instr} {w : CommandWord} (hi : WellFormed i = true)
    (hw : encode i = .cmd68 w) : decodeCommand w = i := by
  cases i with
  | recordHeader c p => cases hw
  | wr8 a | wr16 a | wr24 a | wr32 a | setcur a =>
    obtain rfl := CodeWord.cmd68.inj hw
    exact decodeCommand_commandWord _ a 0 ((fitsField_iff 32 a).1 hi) (by decide)
  | wrn a b | pack a b | ser a b | unpack a b =>
    obtain rfl := CodeWord.cmd68.inj hw
    obtain ⟨ha, hb⟩ := (Bool.and_eq_true _ _).mp hi
    exact decodeCommand_commandWord _ a b ((fitsField_iff 32 a).1 ha) ((fitsField_iff 32 b).1 hb)
  | _ =>
    obtain rfl := CodeWord.cmd68.inj hw
    exact decodeCommand_commandWord _ 0 0 (by decide) (by decide)

/-- Settles O7: the equation of a step per kind of host, and that decoding undoes encoding. -/
theorem stepRunsTheCommand : Obligations.StepRunsTheCommand := by
  unfold Obligations.StepRunsTheCommand
  refine ⟨fun s w rest h => step_of_command h, fun s i w rest hi hw h => ?_, fun s h => step_of_idle h⟩
  have hd : decodeCommand w = i := decodeCommand_of_encode hi hw
  rw [← hd]
  exact step_of_command h

end Sys2Proof.Machine
end

section
/-! The invariant between operations (R45): each register update keeps it, under the bounds that the operations check
first; so every operation and every step keeps it. -/

namespace Sys2Proof.Machine

variable {s t : State}

/-! ### Buffers within their capacity -/

theorem bufferOk_nil (cap : Nat) : bufferOk cap [] := ⟨rfl, rfl⟩

theorem bufferOk.write {cap a : Nat} {m : Memory} (h : bufferOk cap m) (v : Byte) (ha : a < cap) :
    bufferOk cap (m.write a v) :=
  ⟨Memory.write_wf m a v h.1, Memory.write_within cap m a v h.2 ha⟩

theorem bufferOk.writeBytes {cap a : Nat} {m : Memory} {bs : List Byte} (h : bufferOk cap m)
    (ha : a + bs.length ≤ cap) : bufferOk cap (m.writeBytes a bs) :=
  ⟨Memory.writeBytes_wf m a bs h.1, Memory.writeBytes_within cap m a bs h.2 ha⟩

/-! ### A packet in RXBUF -/

/-- A whole packet stands in RXBUF: GOT is PSZ and every packet byte is written (R36). -/
def PacketStored (s : State) : Prop :=
  s.got = s.psz ∧ ∀ a, a < s.psz.toNat → (s.rxbuf.read? a).isSome = true

theorem toNat_got_storePacket_le (r : List Byte) (s : State) : (s.storePacket r).got.toNat ≤ r.length := by
  simp [Nat.mod_le]

/-- A packet of the length that the header declares is stored whole (R142). -/
theorem packetStored_storePacket {pkt : List Byte} (h : pkt.length = s.psz.toNat) :
    PacketStored (s.storePacket pkt) := by
  refine ⟨by simp [h], fun a ha => ?_⟩
  have ha' : a < pkt.length := h ▸ ha
  simp [Memory.read?_writeBytes, ha']

/-! ### The moves of the host and the writer's updates keep the invariant -/

theorem Inv.setHost (h : Inv s) (moves : List HostMove) : Inv (s.setHost moves) := { h with }

theorem Inv.setIn (h : Inv s) (i : InStream) : Inv (s.setIn i) := { h with }

theorem Inv.setHeader (h : Inv s) (v : BitVec 16) : Inv (s.setHeader v) := { h with }

theorem Inv.setCursor (h : Inv s) {n : Nat} (hn : n ≤ s.cfg.obufCap) : Inv (s.setCursor n) :=
  { h with cursor := hn }

theorem Inv.storeObuf (h : Inv s) {a : Nat} {bs : List Byte} (ha : a + bs.length ≤ s.cfg.obufCap) :
    Inv (s.storeObuf a bs) :=
  { h with obuf := h.obuf.writeBytes ha }

theorem Inv.committed (h : Inv s) {n : Nat} (hn : n ≤ s.cfg.obufCap) : Inv (s.committed n) :=
  { h with cursor := Nat.zero_le _, unitLength := hn }

theorem Inv.loadSource (h : Inv s) {src : Source} {a : Nat} (v : Byte) (ha : a < s.cfg.capacity src.buf) :
    Inv (s.loadSource src a v) := by
  cases src with
  | cfg => exact { h with cfgbuf := h.cfgbuf.write v ha }
  | pay => exact { h with paybuf := h.paybuf.write v ha }

/-- An append keeps the invariant: what it adds to OUT is no empty unit (R70). -/
theorem Inv.outAppend {u : List Byte} (h : Inv s) (hu : outAppend u s = some t) : Inv t := by
  rcases outAppend_cases hu with ⟨-, rfl⟩ | ⟨hne, acc, rfl, -, -⟩
  · exact h
  · exact { h with noEmptyUnit := by simpa [h.noEmptyUnit] using hne.symm }

/-- The three stores of SER stay within OBUF when the unit fits (R171). -/
theorem Inv.buildUnit (h : Inv s) {c p : Nat} (hf : 2 + c + p ≤ s.cfg.obufCap) : Inv (buildUnit c p s) :=
  have hheader : 0 + 2 ≤ s.cfg.obufCap := by omega
  have hconfig : 2 + c ≤ s.cfg.obufCap := by omega
  (((h.setHeader _).storeObuf (by simpa using hheader)).storeObuf (by simpa using hconfig)).storeObuf
    (by simpa using hf)

/-! ### The parser's updates keep the invariant -/

theorem Inv.startParse (h : Inv s) : Inv s.startParse :=
  { h with
    sizes := rfl
    counts := by simp
    headerOfRecord := by simp
    bytesOfRecord := by simp }

theorem Inv.clearRecord (h : Inv s) : Inv s.clearRecord :=
  { h with
    headerOfRecord := by simp
    bytesOfRecord := by simp }

/-- While no record is held the header registers may change, if the lengths stay those of the header (R94). -/
theorem Inv.setLengths (h : Inv s) (hr : s.recv = false) (v0 v1 : Byte) : Inv (s.setLengths v0 v1) :=
  { h with
    sizes := packetSize_toNat _ _
    headerOfRecord := by simp [hr]
    bytesOfRecord := by simp [hr] }

theorem Inv.takeByte0 (h : Inv s) (hr : s.recv = false) (v : Byte) : Inv (s.takeByte0 v) :=
  { h with
    counts := ⟨by simp, h.counts.2⟩
    headerOfRecord := by simp [hr] }

theorem Inv.takeByte1 (h : Inv s) (hr : s.recv = false) (v : Byte) : Inv (s.takeByte1 v) :=
  { h.setLengths hr s.b0 v with
    counts := ⟨by simp, h.counts.2⟩
    headerOfRecord := by simp [hr] }

theorem Inv.withHeaderBytes (h : Inv s) (b0 b1 : Byte) : Inv (withHeaderBytes b0 b1 s) :=
  (h.startParse.takeByte0 rfl b0).takeByte1 rfl b1

theorem Inv.storePacket (h : Inv s) (hr : s.recv = false) {r : List Byte} (hl : r.length ≤ 1086) :
    Inv (s.storePacket r) :=
  { h with
    rxbuf := h.rxbuf.writeBytes (by omega)
    counts := ⟨h.counts.1, (toNat_got_storePacket_le r s).trans hl⟩
    headerOfRecord := by simp [hr]
    bytesOfRecord := by simp [hr] }

/-- A record is delivered with its header and all its bytes in place (R45.5, R36). -/
theorem Inv.deliver (h : Inv s)
    (hh : s.hgot = 2#2 ∧ s.got = s.psz ∧ s.xsz.toNat = s.b0.toNat / 4 ∧
      s.fsz.toNat = s.b0.toNat % 4 * 256 + s.b1.toNat)
    (hb : ∀ a, a < s.psz.toNat → (s.rxbuf.read? a).isSome = true) : Inv s.deliver :=
  { h with
    phase := .inl rfl
    headerOfRecord := fun _ => hh
    bytesOfRecord := fun _ => hb
    doneFlag := by simp
    errorFlag := by simp }

/-! ### Ending an operation, and reset -/

/-- The two stream results set the flag that the phase they set asks for; no other result changes PH (R210). -/
theorem Inv.finish (h : Inv s) (r : Status) : Inv (s.finish r) :=
  { h with
    phase := by
      cases r with
      | eos => exact .inr (.inl rfl)
      | eTruncated => exact .inr (.inr rfl)
      | _ => exact h.phase
    doneFlag := by
      cases r with
      | eos => simp
      | eTruncated => simp
      | _ => exact fun hd => State.finish_keeps_flag _ s 0 (h.doneFlag hd)
    errorFlag := by
      cases r with
      | eos => simp
      | eTruncated => simp
      | _ => exact fun he => State.finish_keeps_flag _ s 1 (h.errorFlag he)
    resultFlag := by simp [BitVec.or_assoc] }

/-- A reset asks nothing of the state before it but the parameter and OUT, which it leaves (R43). -/
theorem inv_resetBlock (hc : s.cfg.wf) (hu : [] ∉ s.out.units) : Inv s.resetBlock where
  config := hc
  cursor := Nat.zero_le _
  unitLength := Nat.zero_le _
  obuf := bufferOk_nil _
  cfgbuf := bufferOk_nil _
  paybuf := bufferOk_nil _
  rxbuf := bufferOk_nil _
  sizes := rfl
  counts := by simp
  phase := .inl rfl
  headerOfRecord := by simp
  bytesOfRecord := by simp
  doneFlag := by simp
  errorFlag := by simp
  resultFlag := by simp
  noEmptyUnit := hu

theorem Inv.resetBlock (h : Inv s) : Inv s.resetBlock := inv_resetBlock h.config h.noEmptyUnit

/-- Settles O44: the registers and buffers after reset are those a reset leaves, and OUT holds no unit. -/
theorem invariantAfterReset : Obligations.InvariantAfterReset := by
  unfold Obligations.InvariantAfterReset
  intro c hc
  have hreset : Inv (State.resetWith c).resetBlock := inv_resetBlock hc (by simp [State.resetWith])
  exact { hreset with }

/-! ### Operations and steps keep the invariant -/

/-- A record that came whole is delivered in a state that satisfies the invariant (R142, R45.5). -/
theorem Inv.delivered (h : Inv s) {b0 b1 : Byte} {pkt : List Byte} (i : InStream)
    (hl : pkt.length = (Machine.withHeaderBytes b0 b1 s).psz.toNat) :
    Inv (((Machine.withHeaderBytes b0 b1 s).setIn i).storePacket pkt).deliver := by
  have hle : pkt.length ≤ 1086 := hl ▸ packetSize_le _ _
  obtain ⟨hgot, hbytes⟩ := packetStored_storePacket (s := (Machine.withHeaderBytes b0 b1 s).setIn i) hl
  exact (((h.withHeaderBytes b0 b1).setIn i).storePacket rfl hle).deliver
    ⟨rfl, hgot, extradataSize_toNat b0, framedataSize_toNat b0 b1⟩ hbytes

/-- Every operation keeps the invariant (R45). -/
theorem Effect.inv {i : Instr} (he : Effect s i t) (h : Inv s) : Inv t := by
  cases he with
  | refused _ r => exact h.finish r
  | wrote _ bs hb hf => exact ((h.storeObuf hf).setCursor hf).finish _
  | cursor p hp => exact (h.setCursor hp).finish _
  | flushed u hu =>
    obtain ⟨hcfg, -, -⟩ := modelKept_of_outAppend hu
    exact ((h.outAppend hu).committed (hcfg ▸ h.cursor)).finish _
  | packed c p => exact (h.setHeader _).finish _
  | serialised c p u hc hp hf hu =>
    obtain ⟨hcfg, -, -⟩ := modelKept_of_outAppend hu
    exact (((h.buildUnit hf).outAppend hu).committed (hcfg ▸ hf)).finish _
  | unpacked v0 v1 => exact (h.clearRecord.setLengths rfl _ _).finish _
  | stillDone | stillError => exact h.finish _
  | ended => exact (h.startParse.setIn _).finish _
  | endedStray v => exact ((h.startParse.setIn _).takeByte0 rfl v).finish _
  | received _ b0 b1 pkt rest hi hp hl =>
    exact (h.delivered _ (hl.trans (withHeaderBytes_psz b0 b1 s).symm)).finish _
  | truncated _ b0 b1 part hi hp he hl =>
    have hle : part.length < (withHeaderBytes b0 b1 s).psz.toNat := by rwa [withHeaderBytes_psz]
    exact (((h.withHeaderBytes b0 b1).setIn _).storePacket rfl
      (hle.le.trans (packetSize_le _ _))).finish _
  | reset => exact h.resetBlock.finish _

/-- Settles O45: by the kind of move, each move being made of register updates that keep the invariant. -/
theorem everyStepKeepsTheInvariant : Obligations.EveryStepKeepsTheInvariant := by
  unfold Obligations.EveryStepKeepsTheInvariant
  intro s t h hst
  rcases step_cases hst with ⟨-, rfl⟩ | ⟨w, rest, -, he⟩ | ⟨src, a, v, rest, -, ha, rfl⟩ |
    ⟨stream, rest, -, -, rfl⟩ | ⟨rest, -, rfl⟩
  · exact h
  · exact he.inv (h.setHost rest)
  · exact (h.setHost rest).loadSource v ha
  · exact (h.setHost rest).setIn stream
  · exact (h.setHost rest).resetBlock

end Sys2Proof.Machine
end

section
/-! What an instruction can do to the held record, to OUT and to FLAGS, each said once, with the claims that follow
from it. -/

namespace Sys2Proof.Machine

variable {s t : State} {i : Instr}

/-- An append changes OUT and nothing else (R70). -/
theorem outAppend_eq_setOut {u : List Byte} (h : outAppend u s = some t) : t = s.setOut t.out := by
  obtain ⟨-, -, -, ht⟩ := outAppend_spec h
  exact ht

/-! ### The held record -/

/-- What any instruction does to the held record: it leaves the parser's registers and RXBUF, or drops the record, or
is a PARSE, or the header of one, that delivers a new one. Only UNPACK, which sets the lengths alone, can leave GOT
above PSZ. -/
theorem Effect.record (h : Effect s i t) :
    ParserKept s t ∨
    (t.recv = false ∧ (t.got.toNat ≤ t.psz.toNat ∨ ∃ v0 v1, i = .unpack v0 v1)) ∨
    ((i = .parse ∨ ∃ c p, i = .recordHeader c p) ∧ t.status = .ok ∧ PacketStored t) := by
  cases h with
  | refused _ r hr => left; rcases hr with rfl | rfl | rfl | rfl <;> simp [ParserKept]
  | wrote | cursor | packed => left; simp [ParserKept]
  | flushed u hu => left; rw [outAppend_eq_setOut hu]; simp [ParserKept]
  | serialised c p u _ _ _ hu => left; rw [outAppend_eq_setOut hu]; simp [ParserKept, buildUnit]
  | stillDone _ _ hp | stillError _ _ hp => left; simp [ParserKept, hp]
  | unpacked v0 v1 => exact .inr (.inl ⟨rfl, .inr ⟨v0, v1, rfl⟩⟩)
  | ended | endedStray => exact .inr (.inl ⟨rfl, .inl (by simp)⟩)
  | received _ b0 b1 pkt rest hi hp hl =>
    have hpkt : pkt.length = (withHeaderBytes b0 b1 s).psz.toNat := by rwa [withHeaderBytes_psz]
    refine .inr (.inr ⟨?_, rfl, packetStored_storePacket (s := (withHeaderBytes b0 b1 s).setIn _) hpkt⟩)
    exact hi.imp (fun ⟨e, _⟩ => e) fun ⟨⟨c, p, e, _⟩, _⟩ => ⟨c, p, e⟩
  | truncated _ b0 b1 part hi hp he hl =>
    have hpart : part.length < (withHeaderBytes b0 b1 s).psz.toNat := by rwa [withHeaderBytes_psz]
    have hgot := toNat_got_storePacket_le part ((withHeaderBytes b0 b1 s).setIn ⟨[], .eos⟩)
    exact .inr (.inl ⟨rfl, .inl (hgot.trans hpart.le)⟩)
  | reset => exact .inr (.inl ⟨rfl, .inl (by simp)⟩)

/-- Settles O34: the three things an instruction can do to the record; one of them clears RECV. -/
theorem noRecordIsFabricated : Obligations.NoRecordIsFabricated := by
  unfold Obligations.NoRecordIsFabricated
  intro i s t h hr
  rcases (exec_effect h).record with ⟨-, -, -, -, hx, hf, hp, hg, hrecv, hrx⟩ | ⟨hno, -⟩ | ⟨hi, hok, hgot, hbytes⟩
  · exact .inr ⟨hrecv ▸ hr, hrx, hx, hf, hp, hg⟩
  · exact absurd hr (by simp [hno])
  · exact .inl ⟨hi, hok, hgot, hbytes⟩

/-- Only code 0xA decodes to UNPACK (R101). -/
theorem opField_of_decodeCommand_unpack {w : CommandWord} {v0 v1 : Nat} (h : decodeCommand w = .unpack v0 v1) :
    opField w = 0xA#4 := by
  revert h
  unfold decodeCommand
  exact opcode_cases (P := fun op => decodeFields op (aField w) (bField w) = .unpack v0 v1 → op = 0xA#4)
    (by intro n hn; interval_cases n <;> simp [decodeFields]) (opField w)

/-- Settles O46: by the kind of move; a command that is no UNPACK keeps the record, or stores no more than PSZ. -/
theorem gotStaysWithinThePacket : Obligations.GotStaysWithinThePacket := by
  unfold Obligations.GotStaysWithinThePacket
  intro s t _ hle hst hno
  rcases step_cases hst with ⟨-, rfl⟩ | ⟨w, rest, e, he⟩ | ⟨src, a, v, rest, -, -, rfl⟩ |
    ⟨stream, rest, -, -, rfl⟩ | ⟨rest, -, rfl⟩
  · exact hle
  · rcases he.record with ⟨-, -, -, -, -, -, hp, hg, -, -⟩ | ⟨-, hgot | ⟨v0, v1, hu⟩⟩ | ⟨-, -, hgot, -⟩
    · rw [hp, hg]; exact hle
    · exact hgot
    · exact absurd (opField_of_decodeCommand_unpack hu) (hno w rest e)
    · rw [hgot]
  · exact hle
  · exact hle
  · simp

/-! ### OUT -/

/-- OUT grew by one unit of `n` bytes, and not by an empty one. -/
def GrewByUnit (n : Nat) (o o' : OutStream) : Prop :=
  ∃ u, u ≠ [] ∧ o'.units = o.units ++ [u] ∧ o'.bytes = o.bytes ++ u ∧ n = u.length

/-- Appending the first `n` bytes of a buffer leaves OUT, where `n` is 0, or adds one unit of `n` bytes (R70). -/
theorem out_of_outAppend_readBytes {s' : State} {b : Buf} {n : Nat}
    (h : outAppend (s'.readBytes b 0 n) s = some t) : t.out = s.out ∨ GrewByUnit n s.out t.out := by
  rcases outAppend_cases h with ⟨-, rfl⟩ | ⟨hne, acc, rfl, -, -⟩
  · exact .inl rfl
  · exact .inr ⟨_, hne, rfl, by simp [OutStream.bytes], by simp⟩

/-- What any instruction does to OUT: nothing, or it ends OK and adds one unit of WLEN bytes (R173). -/
theorem Effect.out (h : Effect s i t) : t.out = s.out ∨ (t.status = .ok ∧ GrewByUnit t.wlen s.out t.out) := by
  cases h with
  | flushed u hu => exact (out_of_outAppend_readBytes hu).imp id fun hg => ⟨rfl, hg⟩
  | serialised c p u _ _ _ hu => exact (out_of_outAppend_readBytes hu).imp id fun hg => ⟨rfl, hg⟩
  | _ => left; simp [withHeaderBytes]

/-- Settles O47: an instruction adds at most one unit, and only with the result OK; the other moves leave OUT. -/
theorem outputGrowsByWholeUnits : Obligations.OutputGrowsByWholeUnits := by
  unfold Obligations.OutputGrowsByWholeUnits
  refine ⟨fun s t hst => ?_, fun i s t h hne => ?_⟩
  · rcases step_cases hst with ⟨-, rfl⟩ | ⟨w, rest, -, he⟩ | ⟨src, a, v, rest, -, -, rfl⟩ |
      ⟨stream, rest, -, -, rfl⟩ | ⟨rest, -, rfl⟩
    · exact .inl rfl
    · exact he.out.imp id fun ⟨_, hg⟩ => hg
    · exact .inl rfl
    · exact .inl rfl
    · exact .inl rfl
  · exact (exec_effect h).out.resolve_right fun ⟨hok, _⟩ => hne hok

/-! ### FLAGS -/

/-- Flag `k` is the one of the result with value `k + 1` (R35). -/
theorem getLsbD_flagMask_iff (r : Status) {k : Nat} (hk : k < 6) :
    r.flagMask.getLsbD k = true ↔ r.code.toNat = k + 1 := by
  revert k
  cases r <;> decide

/-- Flag `k` after an instruction that is no reset (R35). -/
theorem Effect.flag_iff (h : Effect s i t) (hi : i ≠ .reset) {k : Nat} (hk : k < 6) :
    t.flags.getLsbD k = true ↔ s.flags.getLsbD k = true ∨ t.status.code.toNat = k + 1 := by
  rcases h.flags with ⟨e, -⟩ | ⟨-, hf⟩
  · exact absurd e hi
  · rw [hf, BitVec.getLsbD_or, Bool.or_eq_true, getLsbD_flagMask_iff _ hk]

/-- A step whose move is a reset clears every flag (R190, R242). -/
theorem step_flags_of_reset (h : step s = .next t) (hr : resetIsNext s) : t.flags = 0#6 := by
  rcases step_cases h with ⟨e, -⟩ | ⟨w, rest, e, he⟩ | ⟨src, a, v, rest, e, -, -⟩ | ⟨stream, rest, e, -, -⟩ |
    ⟨rest, -, rfl⟩
  · exact absurd hr (not_resetIsNext_nil e)
  · have hw : decodeCommand w = .reset := by simpa [resetIsNext_cons_iff e] using hr
    rw [hw] at he
    simp [he.eq_of_reset]
  · simp [resetIsNext_cons_iff e] at hr
  · simp [resetIsNext_cons_iff e] at hr
  · rfl

/-- A flag that is set stays set over a step whose move is no reset (R35). -/
theorem step_keeps_flag_of_not_reset {k : Nat} (h : step s = .next t) (hr : ¬ resetIsNext s)
    (hk : s.flags.getLsbD k = true) : t.flags.getLsbD k = true := by
  rcases step_cases h with ⟨-, rfl⟩ | ⟨w, rest, e, he⟩ | ⟨src, a, v, rest, -, -, rfl⟩ | ⟨stream, rest, -, -, rfl⟩ |
    ⟨rest, e, -⟩
  · exact hk
  · have hw : decodeCommand w ≠ .reset := by simpa [resetIsNext_cons_iff e] using hr
    exact (he.flag_iff hw (BitVec.lt_of_getLsbD hk)).2 (.inl hk)
  · exact hk
  · exact hk
  · simp [resetIsNext_cons_iff e] at hr

end Sys2Proof.Machine
end

section
/-! Two runs side by side: a relation between states that every register update keeps, and that relates only states
alike in what the operations look at, is kept by every operation, stops included. -/

namespace Sys2Proof.Machine

/-! ### The relation -/

/-- The two answers are of the same kind: next states related by `R`, or the same stop. -/
inductive SameOutcome (R : State → State → Prop) :
    Host.Outcome State Fault Refusal → Host.Outcome State Fault Refusal → Prop where
  | next {t t' : State} (h : R t t') : SameOutcome R (.next t) (.next t')
  | fault (r : Fault) : SameOutcome R (.fault r) (.fault r)
  | refused (r : Refusal) : SameOutcome R (.refused r) (.refused r)

/-- Two states alike in all that an operation's course depends on (R44). -/
structure SameControl (s s' : State) : Prop where
  cfg : s'.cfg = s.cfg
  wcur : s'.wcur = s.wcur
  ph : s'.ph = s.ph
  psz : s'.psz = s.psz
  inp : s'.inp = s.inp
  accepts : s'.out.accepts = s.out.accepts

/-- The register updates that neither read nor change a buffer, OUT or FLAGS. -/
inductive RegisterUpdate : (State → State) → Prop where
  | setCursor (n : Nat) : RegisterUpdate (State.setCursor n)
  | setHeader (v : BitVec 16) : RegisterUpdate (State.setHeader v)
  | committed (n : Nat) : RegisterUpdate (State.committed n)
  | setLengths (v0 v1 : Byte) : RegisterUpdate (State.setLengths v0 v1)
  | clearRecord : RegisterUpdate State.clearRecord
  | startParse : RegisterUpdate State.startParse
  | takeByte0 (v : Byte) : RegisterUpdate (State.takeByte0 v)
  | takeByte1 (v : Byte) : RegisterUpdate (State.takeByte1 v)
  | deliver : RegisterUpdate State.deliver
  | setIn (i : InStream) : RegisterUpdate (State.setIn i)

/-- `R` relates states alike in control, and `B` the byte sequences read from such states; whatever an operation does
to two such states keeps `R`. -/
structure Simulation (R : State → State → Prop) (B : List Byte → List Byte → Prop) : Prop where
  control {s s' : State} : R s s' → SameControl s s'
  bytes_refl (bs : List Byte) : B bs bs
  bytes_length {bs bs' : List Byte} : B bs bs' → bs'.length = bs.length
  readBytes {s s' : State} (b : Buf) (a n : Nat) : R s s' → B (s.readBytes b a n) (s'.readBytes b a n)
  update {s s' : State} {f : State → State} : RegisterUpdate f → R s s' → R (f s) (f s')
  storeObuf {s s' : State} {bs bs' : List Byte} (a : Nat) :
    R s s' → B bs bs' → R (s.storeObuf a bs) (s'.storeObuf a bs')
  addUnit {s s' : State} {u u' : List Byte} (k : Option Nat) :
    R s s' → B u u' → R (s.setOut ⟨s.out.units ++ [u], k⟩) (s'.setOut ⟨s'.out.units ++ [u'], k⟩)
  storePacket {s s' : State} (r : List Byte) : R s s' → R (s.storePacket r) (s'.storePacket r)
  finish {s s' : State} (r : Status) : R s s' → R (s.finish r) (s'.finish r)
  resetBlock {s s' : State} : R s s' → R s.resetBlock s'.resetBlock

namespace SameOutcome

variable {R : State → State → Prop} {o o' : Host.Outcome State Fault Refusal}

theorem exists_next {t : State} (h : SameOutcome R o o') (ho : o = .next t) : ∃ t', o' = .next t' ∧ R t t' := by
  cases h with
  | next h => cases ho; exact ⟨_, rfl, h⟩
  | fault | refused => cases ho

theorem eq_fault {r : Fault} (h : SameOutcome R o o') (ho : o = .fault r) : o' = .fault r := by
  cases h with
  | fault => exact ho
  | next | refused => cases ho

/-- The two sides decide a condition alike. -/
theorem ite {p p' : Prop} [Decidable p] [Decidable p'] {q q' : Host.Outcome State Fault Refusal} (hp : p' ↔ p)
    (h : SameOutcome R o o') (hq : SameOutcome R q q') :
    SameOutcome R (if p then o else q) (if p' then o' else q') := by
  by_cases hc : p
  · rwa [if_pos hc, if_pos (hp.2 hc)]
  · rwa [if_neg hc, if_neg (mt hp.1 hc)]

end SameOutcome

/-! ### The shared operations -/

/-- `InRead(n)` answers the same bytes on the same input stream, and changes the stream alone (R68). -/
theorem inRead_congr (n : Nat) {s s' : State} (h : s'.inp = s.inp) :
    inRead n s' = (inRead n s).map fun p => (p.1, s'.setIn p.2.inp) := by
  by_cases hn : n ≤ s.inp.bytes.length
  · rw [inRead_of_enough n s hn, inRead_of_enough n s' (h ▸ hn), h]
    rfl
  · cases he : s.inp.ending with
    | eos =>
      rw [inRead_of_ended n s (Nat.not_le.1 hn) he, inRead_of_ended n s' (h ▸ Nat.not_le.1 hn) (h ▸ he), h]
      rfl
    | never =>
      rw [(inRead_eq_none_iff n s).2 ⟨Nat.not_le.1 hn, he⟩,
        (inRead_eq_none_iff n s').2 ⟨h ▸ Nat.not_le.1 hn, h ▸ he⟩]
      rfl

theorem inRead_eq_setIn {n : Nat} {s t : State} {r : List Byte} (h : inRead n s = some (r, t)) :
    t = s.setIn t.inp := by
  rcases inRead_cases h with ⟨_, -, -, rfl⟩ | ⟨-, -, -, rfl⟩ <;> rfl

namespace Simulation

variable {R : State → State → Prop} {B : List Byte → List Byte → Prop} {s s' : State}

/-- `InRead(n)` waits for ever on both sides, or reads the same bytes on both. -/
theorem inRead_cases (sim : Simulation R B) (h : R s s') (n : Nat) :
    (inRead n s = none ∧ inRead n s' = none) ∨
      ∃ r t t', inRead n s = some (r, t) ∧ inRead n s' = some (r, t') ∧ R t t' := by
  have hcongr := inRead_congr n (sim.control h).inp
  cases e : inRead n s with
  | none => exact .inl ⟨rfl, by simp [hcongr, e]⟩
  | some p =>
    refine .inr ⟨p.1, p.2, s'.setIn p.2.inp, rfl, by simp [hcongr, e], ?_⟩
    rw [inRead_eq_setIn e]
    exact sim.update (.setIn _) h

/-- The sink stalls on both sides, or takes the unit on both (R70). -/
theorem outAppend_cases (sim : Simulation R B) (h : R s s') {u u' : List Byte} (hu : B u u') :
    (outAppend u s = none ∧ outAppend u' s' = none) ∨
      ∃ t t', outAppend u s = some t ∧ outAppend u' s' = some t' ∧ R t t' := by
  have hlen := sim.bytes_length hu
  have hacc := (sim.control h).accepts
  cases e : outAppend u s with
  | none =>
    obtain ⟨k, hk, hlt⟩ := (outAppend_eq_none_iff u s).1 e
    exact .inl ⟨rfl, (outAppend_eq_none_iff u' s').2 ⟨k, hacc ▸ hk, hlen ▸ hlt⟩⟩
  | some t =>
    cases e' : outAppend u' s' with
    | none =>
      obtain ⟨k, hk, hlt⟩ := (outAppend_eq_none_iff u' s').1 e'
      rw [(outAppend_eq_none_iff u s).2 ⟨k, hacc ▸ hk, hlen ▸ hlt⟩] at e
      cases e
    | some t' =>
      refine .inr ⟨t, t', rfl, rfl, ?_⟩
      rcases Machine.outAppend_cases e with ⟨rfl, rfl⟩ | ⟨hne, acc, rfl, ha, -⟩ <;>
        rcases Machine.outAppend_cases e' with ⟨rfl, rfl⟩ | ⟨hne', acc', rfl, ha', -⟩
      · exact h
      · exact absurd (List.eq_nil_of_length_eq_zero hlen) hne'
      · exact absurd (List.eq_nil_of_length_eq_zero hlen.symm) hne
      · have hsame : acc' = acc := by rw [ha', ha, hacc, hlen]
        rw [hsame]
        exact sim.addUnit acc h hu

theorem writeAtCursor (sim : Simulation R B) (h : R s s') {bs bs' : List Byte} (hb : B bs bs') :
    R (writeAtCursor bs s) (writeAtCursor bs' s') := by
  have hlen := sim.bytes_length hb
  have hc := sim.control h
  by_cases ho : s.cfg.obufCap < s.wcur + bs.length
  · rw [writeAtCursor_overflow bs s ho, writeAtCursor_overflow bs' s' (by rw [hc.cfg, hc.wcur, hlen]; exact ho)]
    exact sim.finish _ h
  · have hf := Nat.not_lt.1 ho
    rw [writeAtCursor_fits bs s hf, writeAtCursor_fits bs' s' (by rw [hc.cfg, hc.wcur, hlen]; exact hf), hc.wcur, hlen]
    exact sim.finish _ (sim.update (.setCursor _) (sim.storeObuf _ h hb))

theorem appendUnit (sim : Simulation R B) (h : R s s') (n : Nat) :
    SameOutcome R (appendUnit n s) (appendUnit n s') := by
  unfold Machine.appendUnit
  rcases sim.outAppend_cases h (sim.readBytes .obuf 0 n h) with ⟨e, e'⟩ | ⟨t, t', e, e', ht⟩
  · rw [e, e']
    exact .fault _
  · rw [e, e']
    exact .next (sim.finish _ (sim.update (.committed n) ht))

theorem buildUnit (sim : Simulation R B) (h : R s s') (c p : Nat) : R (buildUnit c p s) (buildUnit c p s') :=
  sim.storeObuf _
    (sim.storeObuf _ (sim.storeObuf _ (sim.update (.setHeader _) h) (sim.bytes_refl _)) (sim.readBytes .cfgbuf 0 c h))
    (sim.readBytes .paybuf 0 p h)

theorem receivePacket (sim : Simulation R B) (h : R s s') : SameOutcome R (receivePacket s) (receivePacket s') := by
  have hc := sim.control h
  unfold Machine.receivePacket
  rw [hc.psz]
  rcases sim.inRead_cases h s.psz.toNat with ⟨e, e'⟩ | ⟨r, t, t', e, e', ht⟩
  · rw [e, e']
    exact .fault _
  · rw [e, e']
    exact .ite Iff.rfl (.next (sim.finish _ (sim.storePacket r ht)))
      (.next (sim.finish _ (sim.update .deliver (sim.storePacket r ht))))

theorem receiveRecord (sim : Simulation R B) (h : R s s') (b0 b1 : Byte) :
    SameOutcome R (receiveRecord b0 b1 s) (receiveRecord b0 b1 s') :=
  sim.receivePacket (sim.update (.takeByte1 b1) (sim.update (.takeByte0 b0) h))

theorem parseRecord (sim : Simulation R B) (h : R s s') : SameOutcome R (parseRecord s) (parseRecord s') := by
  unfold Machine.parseRecord
  rcases sim.inRead_cases (sim.update .startParse h) 2 with ⟨e, e'⟩ | ⟨r, t, t', e, e', ht⟩
  · rw [e, e']
    exact .fault _
  · rw [e, e']
    match r with
    | [] => exact .next (sim.finish _ ht)
    | [v] => exact .next (sim.finish _ (sim.update (.takeByte0 v) ht))
    | v0 :: v1 :: _ => exact sim.receiveRecord ht v0 v1

theorem execParse (sim : Simulation R B) (h : R s s') : SameOutcome R (execParse s) (execParse s') := by
  unfold Machine.execParse
  rw [(sim.control h).ph]
  cases s.ph with
  | done | error => exact .next (sim.finish _ h)
  | hdr0 | hdr1 | body => exact sim.parseRecord h

theorem execRecordHeader (sim : Simulation R B) (h : R s s') (c p : Nat) :
    SameOutcome R (execRecordHeader c p s) (execRecordHeader c p s') := by
  unfold Machine.execRecordHeader
  rw [(sim.control h).ph]
  cases s.ph with
  | done | error => exact .next (sim.finish _ h)
  | hdr0 | hdr1 | body => exact sim.receiveRecord (sim.update .startParse h) _ _

theorem execWrn (sim : Simulation R B) (h : R s s') (sel n : Nat) :
    SameOutcome R (execWrn sel n s) (execWrn sel n s') := by
  unfold Machine.execWrn
  rw [(sim.control h).cfg]
  cases sourceOf sel with
  | none => exact .next (sim.finish _ h)
  | some src =>
    exact .ite Iff.rfl (.next (sim.finish _ h)) (.next (sim.writeAtCursor h (sim.readBytes src.buf 0 n h)))

theorem execSer (sim : Simulation R B) (h : R s s') (c p : Nat) :
    SameOutcome R (execSer c p s) (execSer c p s') := by
  unfold Machine.execSer
  rw [(sim.control h).cfg]
  exact .ite Iff.rfl
    (.ite Iff.rfl (.next (sim.finish _ h)) (sim.appendUnit (sim.buildUnit h c p) _)) (.next (sim.finish _ h))

/-! ### Every operation -/

/-- Every operation has related outcomes in related states. -/
theorem exec (sim : Simulation R B) (h : R s s') (i : Instr) : SameOutcome R (exec i s) (exec i s') := by
  have finished (r : Status) : SameOutcome R (.next (s.finish r)) (.next (s'.finish r)) := .next (sim.finish r h)
  have written (bs : List Byte) :
      SameOutcome R (.next (Machine.writeAtCursor bs s)) (.next (Machine.writeAtCursor bs s')) :=
    .next (sim.writeAtCursor h (sim.bytes_refl bs))
  have hc := sim.control h
  cases i with
  | wr8 a | wr16 a | wr24 a => exact .ite Iff.rfl (finished _) (written _)
  | wr32 a => exact written _
  | wrn sel n => exact sim.execWrn h sel n
  | setcur p =>
    exact .ite (by rw [hc.cfg]) (finished _) (.next (sim.finish _ (sim.update (.setCursor p) h)))
  | flush =>
    have hflush : Machine.exec .flush s' = Machine.appendUnit s.wcur s' := by
      rw [← hc.wcur]
      rfl
    exact hflush ▸ sim.appendUnit h s.wcur
  | pack c p => exact .ite Iff.rfl (.next (sim.finish _ (sim.update (.setHeader _) h))) (finished _)
  | ser c p => exact sim.execSer h c p
  | unpack v0 v1 =>
    exact .ite Iff.rfl (finished _) (.next (sim.finish _ (sim.update .clearRecord (sim.update (.setLengths _ _) h))))
  | parse => exact sim.execParse h
  | reset => exact .next (sim.finish _ (sim.resetBlock h))
  | illegal0 | illegalC | illegalD | illegalE => exact finished _
  | recordHeader c p => exact sim.execRecordHeader h c p

end Simulation

/-! ### States that differ in the moves to come -/

theorem State.readBytes_setHost (s : State) (moves : List HostMove) (b : Buf) (a n : Nat) :
    (s.setHost moves).readBytes b a n = s.readBytes b a n :=
  State.readBytes_of_mem_eq _ _ _ _ _ (by cases b <;> rfl) rfl

/-- No operation looks at the moves to come (R20). -/
theorem simulation_setHost (moves : List HostMove) : Simulation (fun s s' => s' = s.setHost moves) Eq where
  control := by rintro _ _ rfl; exact ⟨rfl, rfl, rfl, rfl, rfl, rfl⟩
  bytes_refl _ := rfl
  bytes_length := by rintro _ _ rfl; rfl
  readBytes b a n := by rintro rfl; exact (State.readBytes_setHost _ _ _ _ _).symm
  update hf := by rintro rfl; cases hf <;> rfl
  storeObuf a := by rintro rfl rfl; rfl
  addUnit k := by rintro rfl rfl; rfl
  storePacket r := by rintro rfl; rfl
  finish r := by rintro rfl; rfl
  resetBlock := by rintro _ _ rfl; rfl

/-- Settles O57: an operation other than RESET leaves the moves by its frame, RESET by what a reset is; and two states
that differ in them run alike. -/
theorem futureCommandsAreNoState : Obligations.FutureCommandsAreNoState := by
  unfold Obligations.FutureCommandsAreNoState
  refine ⟨fun i s t h => ?_, fun i s t moves h => ?_, fun i s moves r h => ?_⟩
  · by_cases hi : i = .reset
    · subst hi
      rw [(exec_effect h).eq_of_reset]
      rfl
    · obtain ⟨-, -, hhost⟩ := (exec_effect h).modelKept hi
      exact hhost
  · obtain ⟨_, ht, rfl⟩ := ((simulation_setHost moves).exec rfl i).exists_next h
    exact ht
  · exact ((simulation_setHost moves).exec rfl i).eq_fault h

/-! ### States that differ in FLAGS -/

/-- Two states that differ at most in FLAGS. -/
def SameButFlags (s s' : State) : Prop := ∃ f : BitVec 6, s' = { s with flags := f }

/-- No operation looks at FLAGS (R35). -/
theorem simulation_flags : Simulation SameButFlags Eq where
  control := by rintro _ _ ⟨f, rfl⟩; exact ⟨rfl, rfl, rfl, rfl, rfl, rfl⟩
  bytes_refl _ := rfl
  bytes_length := by rintro _ _ rfl; rfl
  readBytes b a n := by rintro ⟨f, rfl⟩; exact State.readBytes_of_mem_eq _ _ _ _ _ (by cases b <;> rfl) rfl
  update hf := by rintro ⟨f, rfl⟩; cases hf <;> exact ⟨f, rfl⟩
  storeObuf a := by rintro ⟨f, rfl⟩ rfl; exact ⟨f, rfl⟩
  addUnit k := by rintro ⟨f, rfl⟩ rfl; exact ⟨f, rfl⟩
  storePacket r := by rintro ⟨f, rfl⟩; exact ⟨f, rfl⟩
  finish r := by rintro ⟨f, rfl⟩; exact ⟨f ||| r.flagMask, rfl⟩
  resetBlock := by rintro _ _ ⟨f, rfl⟩; exact ⟨0#6, rfl⟩

/-- Settles O42: what an instruction does to each flag, what a step does, and that states that differ in FLAGS run
alike. -/
theorem flagsAreStickyAndUnread : Obligations.FlagsAreStickyAndUnread := by
  unfold Obligations.FlagsAreStickyAndUnread
  refine ⟨fun i s t k hi h hk => (exec_effect h).flag_iff hi hk, fun s t hr h => step_flags_of_reset h hr, rfl,
    fun s t k h hk => ?_, fun i s t f h => ?_, fun i s f r h => (simulation_flags.exec ⟨f, rfl⟩ i).eq_fault h⟩
  · exact or_iff_not_imp_right.2 fun hr => step_keeps_flag_of_not_reset h hr hk
  · obtain ⟨_, ht, f', rfl⟩ := (simulation_flags.exec ⟨f, rfl⟩ i).exists_next h
    exact ⟨f', ht⟩

/-! ### States that differ in buffer contents -/

/-- What the buffers, the draw and the units on OUT hold. -/
structure Contents where
  obuf : Memory
  cfgbuf : Memory
  paybuf : Memory
  rxbuf : Memory
  draw : Nat
  units : List (List Byte)

/-- The state with other contents. -/
def State.withContents (x : Contents) (s : State) : State :=
  { s with
    obuf := x.obuf
    cfgbuf := x.cfgbuf
    paybuf := x.paybuf
    rxbuf := x.rxbuf
    draw := x.draw
    out := ⟨x.units, s.out.accepts⟩ }

theorem sameButBufferContents_iff {s s' : State} :
    SameButBufferContents s s' ↔
      ∃ x : Contents, x.units.map List.length = s.out.units.map List.length ∧ s' = s.withContents x := by
  constructor
  · rintro ⟨hcfg, hwcur, hhdr, hwlen, hph, hb0, hb1, hhgot, hxsz, hfsz, hpsz, hgot, hrecv, hstatus, hflags, hinp, hhost,
      haccepts, hunits⟩
    have hout : s'.out = ⟨s'.out.units, s.out.accepts⟩ := by rw [← haccepts]
    exact ⟨⟨s'.obuf, s'.cfgbuf, s'.paybuf, s'.rxbuf, s'.draw, s'.out.units⟩, hunits,
      State.ext_fields _ _ hcfg hwcur rfl rfl rfl hhdr hwlen hph hb0 hb1 hhgot hxsz hfsz hpsz hgot hrecv rfl hstatus
        hflags hinp hout rfl hhost⟩
  · rintro ⟨x, hx, rfl⟩
    exact ⟨rfl, rfl, rfl, rfl, rfl, rfl, rfl, rfl, rfl, rfl, rfl, rfl, rfl, rfl, rfl, rfl, rfl, rfl, hx⟩

/-- No operation's course depends on buffer contents; of bytes read it depends on their number only (R44). -/
theorem simulation_contents :
    Simulation SameButBufferContents fun bs bs' => bs'.length = bs.length where
  control := by
    simp only [sameButBufferContents_iff]
    rintro _ _ ⟨x, -, rfl⟩
    exact ⟨rfl, rfl, rfl, rfl, rfl, rfl⟩
  bytes_refl _ := rfl
  bytes_length h := h
  readBytes b a n _ := by simp
  update hf := by
    simp only [sameButBufferContents_iff]
    rintro ⟨x, hx, rfl⟩
    cases hf <;> exact ⟨x, hx, rfl⟩
  storeObuf {_ _ _ bs'} a := by
    simp only [sameButBufferContents_iff]
    rintro ⟨x, hx, rfl⟩ -
    exact ⟨{ x with obuf := x.obuf.writeBytes a bs' }, hx, rfl⟩
  addUnit {_ _ _ u'} k := by
    simp only [sameButBufferContents_iff]
    rintro ⟨x, hx, rfl⟩ hu
    exact ⟨{ x with units := x.units ++ [u'] }, by simp [hx, hu], rfl⟩
  storePacket r := by
    simp only [sameButBufferContents_iff]
    rintro ⟨x, hx, rfl⟩
    exact ⟨{ x with rxbuf := x.rxbuf.writeBytes 0 r }, hx, rfl⟩
  finish r := by
    simp only [sameButBufferContents_iff]
    rintro ⟨x, hx, rfl⟩
    exact ⟨x, hx, rfl⟩
  resetBlock := by
    simp only [sameButBufferContents_iff]
    rintro _ _ ⟨x, hx, rfl⟩
    exact ⟨⟨[], [], [], [], x.draw + 1, x.units⟩, hx, rfl⟩

/-- Settles O48: two states that differ in buffer contents run alike. -/
theorem bufferContentsNeverSteerTheBlock : Obligations.BufferContentsNeverSteerTheBlock := by
  unfold Obligations.BufferContentsNeverSteerTheBlock
  exact ⟨fun i s s' t hs h => (simulation_contents.exec hs i).exists_next h,
    fun i s s' r hs h => (simulation_contents.exec hs i).eq_fault h⟩

end Sys2Proof.Machine
end

section
/-! What the host sees and does between operations: the status read port, a load of a source buffer, and a word of the
opcode table placed where the next step takes it. -/

namespace Sys2Proof.Machine

/-! ### The status read port -/

theorem zeroExtendCursor_toNat {n : Nat} (h : n < 2 ^ 32) : (zeroExtendCursor n).toNat = n := by
  rw [zeroExtendCursor, if_pos h, BitVec.toNat_ofNat, Nat.mod_eq_of_lt h]

/-- Register numbers from 14 on name no register (R41). -/
theorem State.readReg_of_unlisted (s : State) {n : BitVec 5} (h : 14 ≤ n.toNat) : s.readReg n = 0#32 := by
  obtain ⟨k, hk⟩ := Nat.exists_eq_add_of_le' h
  simp [State.readReg, hk]

/-- Settles O52: number by number; a register that fits 32 bits keeps its value. -/
theorem statusPortReadsTheRegisters : Obligations.StatusPortReadsTheRegisters := by
  unfold Obligations.StatusPortReadsTheRegisters
  intro s hlen hcur
  have port {w : Nat} (v : BitVec w) (hw : w ≤ 32) : (v.setWidth 32).toNat = v.toNat :=
    BitVec.toNat_setWidth_of_le hw
  refine ⟨?_, port _ (by decide), ?_, ?_, port _ (by decide), port _ (by decide), port _ (by decide),
    port _ (by decide), port _ (by decide), port _ (by decide), port _ (by decide), port _ (by decide),
    zeroExtendCursor_toNat hlen, zeroExtendCursor_toNat hcur, fun n hn => s.readReg_of_unlisted hn⟩
  · exact (port s.status.code (by decide)).trans (by cases s.status <;> rfl)
  · exact (port s.ph.code (by decide)).trans (by cases s.ph <;> rfl)
  · exact apply_ite BitVec.toNat _ _ _

/-! ### A load of a source buffer -/

/-- The step of a load within the capacity (R24, R25). -/
theorem step_of_load {s : State} {src : Source} {a : Nat} {v : Byte} {rest : List HostMove}
    (hs : s.host = .load src a v :: rest) (ha : a < s.cfg.capacity src.buf) :
    step s = .next ((s.setHost rest).loadSource src a v) := by
  simp [step, hs, performMove, performLoad, ha]

/-- The step of a load beyond the capacity (R73). -/
theorem step_of_load_beyond {s : State} {src : Source} {a : Nat} {v : Byte} {rest : List HostMove}
    (hs : s.host = .load src a v :: rest) (ha : s.cfg.capacity src.buf ≤ a) :
    step s = .refused (.hostAddressBeyondBuffer src a) := by
  simp [step, hs, performMove, performLoad, Nat.not_lt.2 ha]

/-- The buffer loaded takes the byte (R24, R25). -/
theorem State.loadSource_mem (src : Source) (a : Nat) (v : Byte) (s : State) :
    (s.loadSource src a v).mem src.buf = (s.mem src.buf).write a v := by
  cases src <;> rfl

/-- Settles O53: the step of a load is one write to the buffer it names, or the refusal. -/
theorem hostLoadWritesOneByte : Obligations.HostLoadWritesOneByte := by
  unfold Obligations.HostLoadWritesOneByte
  intro s src a v rest hs
  have hmem : ((s.setHost rest).loadSource src a v).mem src.buf = (s.mem src.buf).write a v :=
    (State.loadSource_mem src a v (s.setHost rest)).trans (by cases src <;> rfl)
  refine ⟨fun ha => ⟨_, step_of_load hs ha, ?_, fun x hx => ?_, ?_, ?_, ?_, ?_, rfl, rfl, rfl, rfl, rfl, rfl, rfl⟩,
    step_of_load_beyond hs⟩
  · rw [hmem, Memory.read?_write_same]
  · rw [hmem, Memory.read?_write_other _ _ hx]
  · rintro rfl; rfl
  · rintro rfl; rfl
  · simp [WriterKept]
  · simp [ParserKept]

/-! ### A placed word -/

theorem step_withCommand (w : CommandWord) (s : State) : step (s.withCommand w) = exec (decodeCommand w) s := by
  rw [step_of_command (w := w) (rest := s.host) rfl]
  rfl

theorem decodeTableWord_command {nbits w : Nat} (hn : 16 < nbits) (hw : w < 2 ^ 68) :
    decodeTableWord nbits w = some (decodeCommand (BitVec.ofNat 68 w)) := by
  rw [decodeTableWord, tableWidth, if_neg (Nat.not_le.2 hn), decodeRaw, if_pos rfl, if_pos hw]
  rfl

theorem decodeTableWord_header {nbits w : Nat} (hn : nbits ≤ 16) (hw : w < 2 ^ 16) :
    decodeTableWord nbits w = some (decodeHeader (BitVec.ofNat 16 w)) := by
  rw [decodeTableWord, tableWidth, if_pos hn, decodeRaw, if_neg (by decide), if_pos rfl, if_pos hw]
  rfl

/-- A header word is put together again from its two sizes (R91). -/
theorem headerWord_fields (h : HeaderWord) :
    headerWord (h.extractLsb' 10 6).toNat (h.extractLsb' 0 10).toNat = h := by
  apply BitVec.eq_of_toNat_eq
  have hlt := h.isLt
  rw [headerWord_toNat _ _ (Nat.le_of_lt_succ (BitVec.isLt _)) (Nat.le_of_lt_succ (BitVec.isLt _))]
  simp only [BitVec.extractLsb'_toNat, Nat.shiftRight_eq_div_pow]
  omega

/-- A PARSE in HDR0 with a header next on the wire is that header's meaning where the wire goes on (R141). -/
theorem exec_parse_of_header {s : State} {h : HeaderWord} {rest : List Byte} (hp : s.ph = .hdr0)
    (hb : s.inp.bytes = headerByte0 h :: headerByte1 h :: rest) :
    exec .parse s = exec (decodeHeader h) (s.setIn ⟨rest, s.inp.ending⟩) := by
  have hread : inRead 2 s.startParse =
      some ([headerByte0 h, headerByte1 h], s.startParse.setIn ⟨rest, s.inp.ending⟩) :=
    inRead_append s.startParse [headerByte0 h, headerByte1 h] rest hb
  calc exec .parse s = parseRecord s := by rw [exec, execParse, hp]
    _ = receiveRecord (headerByte0 h) (headerByte1 h) (s.startParse.setIn ⟨rest, s.inp.ending⟩) := by
      rw [parseRecord, hread]
    _ = exec (decodeHeader h) (s.setIn ⟨rest, s.inp.ending⟩) := by
      rw [decodeHeader, exec, execRecordHeader, State.setIn_ph, hp, headerWord_fields]
      rfl

/-- Settles O9: a command is the next move; a header stands on the wire before a PARSE that takes it. -/
theorem placedWordRunsNext : Obligations.PlacedWordRunsNext := by
  unfold Obligations.PlacedWordRunsNext
  refine ⟨fun s nbits w hn hw => ⟨_, decodeTableWord_command hn hw, ?_⟩,
    fun s nbits w hn hw => ⟨_, decodeTableWord_header hn hw, ?_⟩⟩
  · rw [State.withFetchWord, placeFetchWord, if_neg (Nat.not_le.2 hn), step_withCommand]
  · rw [State.withFetchWord, placeFetchWord, if_pos hn, State.withHeaderOnWire, step_withCommand]
    exact exec_parse_of_header rfl rfl

end Sys2Proof.Machine
end

section
/-! Operations that may be run again (R71): a result taken twice is the result taken once, and a second update to the same
values changes nothing. -/

namespace Sys2Proof.Machine

/-! ### The same update again -/

theorem Status.phaseAfter_phaseAfter (r : Status) (p : Phase) : r.phaseAfter (r.phaseAfter p) = r.phaseAfter p := by
  cases r <;> rfl

theorem State.finish_finish (r : Status) (s : State) : (s.finish r).finish r = s.finish r := by
  have hflags : s.flags ||| r.flagMask ||| r.flagMask = s.flags ||| r.flagMask := by
    rw [BitVec.or_assoc, BitVec.or_self]
  simp only [State.finish, hflags, Status.phaseAfter_phaseAfter]

theorem State.setCursor_finish_setCursor (n : Nat) (r : Status) (s : State) :
    ((s.setCursor n).finish r).setCursor n = (s.setCursor n).finish r := rfl

theorem State.setHeader_finish_setHeader (v : BitVec 16) (r : Status) (s : State) :
    ((s.setHeader v).finish r).setHeader v = (s.setHeader v).finish r := rfl

theorem State.setLengths_finish_setLengths (b0 b1 : Byte) (r : Status) (s : State) :
    (((s.setLengths b0 b1).clearRecord.finish r).setLengths b0 b1).clearRecord =
      (s.setLengths b0 b1).clearRecord.finish r := rfl

/-- A block that was just reset is reset again: only the draw moves on (R44, R190). -/
theorem State.resetBlock_finish_resetBlock (s : State) :
    (s.resetBlock.finish .ok).resetBlock.finish .ok = { s.resetBlock.finish .ok with draw := s.draw + 2 } := rfl

/-! ### The same operation again -/

/-- UNPACK: the operands alone decide between the refusal and the update (R140). -/
theorem execUnpack_again {b0 b1 : Nat} {s t : State} (h : execUnpack b0 b1 s = .next t) :
    execUnpack b0 b1 t = .next t := by
  by_cases hb : b0 > 0xFF ∨ b1 > 0xFF
  · rw [execUnpack, if_pos hb] at h ⊢
    cases h
    rw [State.finish_finish]
  · rw [execUnpack, if_neg hb] at h ⊢
    cases h
    rw [State.setLengths_finish_setLengths, State.finish_finish]

/-- PACK: the operands alone decide between the refusal and the update (R170). -/
theorem execPack_again {c p : Nat} {s t : State} (h : execPack c p s = .next t) : execPack c p t = .next t := by
  by_cases hf : sizesFit c p = true
  · rw [execPack, if_pos hf] at h ⊢
    cases h
    rw [State.setHeader_finish_setHeader, State.finish_finish]
  · rw [execPack, if_neg hf] at h ⊢
    cases h
    rw [State.finish_finish]

/-- SETCUR: the operand and the capacity, which stays, decide between the refusal and the update (R126). -/
theorem execSetcur_again {p : Nat} {s t : State} (h : execSetcur p s = .next t) : execSetcur p t = .next t := by
  by_cases hp : p > s.cfg.obufCap
  · rw [execSetcur, if_pos hp] at h
    cases h
    rw [execSetcur, State.finish_cfg, if_pos hp, State.finish_finish]
  · rw [execSetcur, if_neg hp] at h
    cases h
    rw [execSetcur, State.finish_cfg, State.setCursor_cfg, if_neg hp, State.setCursor_finish_setCursor,
      State.finish_finish]

/-- Settles O50: operation by operation; RESET ends in one state, which a further reset leaves but for the draw. -/
theorem repeatableOperations : Obligations.RepeatableOperations := by
  unfold Obligations.RepeatableOperations
  refine ⟨fun b0 b1 s t h => execUnpack_again h, fun c p s t h => execPack_again h,
    fun p s t h => execSetcur_again h, fun s t h => ?_⟩
  obtain rfl : t = s.resetBlock.finish .ok := (exec_effect h).eq_of_reset
  exact ⟨s.draw + 2, congrArg Host.Outcome.next s.resetBlock_finish_resetBlock⟩

end Sys2Proof.Machine
end

section
/-! The code words: what the decoder makes of an encoded instruction and the encoder of a decoded word, and the fields
that neither of them looks at (R91, R98 to R102). -/

namespace Sys2Proof.Machine

/-! ### Headers -/

/-- A header word is decoded to its quotient and remainder by 1024 (R91). -/
theorem decodeHeader_eq (h : HeaderWord) : decodeHeader h = .recordHeader (h.toNat / 1024) (h.toNat % 1024) := by
  have hlt := h.isLt
  simp only [decodeHeader, BitVec.extractLsb'_toNat, Nat.shiftRight_eq_div_pow]
  congr 1 <;> omega

theorem encode_decodeHeader (h : HeaderWord) : encode (decodeHeader h) = .hdr16 h :=
  congrArg CodeWord.hdr16 (headerWord_fields h)

/-- The header word that encodes a well-formed instruction decodes to it (R91). -/
theorem decodeHeader_of_encode {i : Instr} {h : HeaderWord} (hi : WellFormed i = true) (he : encode i = .hdr16 h) :
    decodeHeader h = i := by
  cases i with
  | recordHeader c p =>
    obtain rfl := CodeWord.hdr16.inj he
    obtain ⟨hc, hp⟩ := (Bool.and_eq_true _ _).mp hi
    have hc' : c < 64 := (fitsField_iff 6 c).1 hc
    have hp' : p < 1024 := (fitsField_iff 10 p).1 hp
    rw [decodeHeader_eq, headerWord_toNat c p (by omega) (by omega)]
    congr 1 <;> omega
  | _ => cases he

/-- Settles O1: by the encoding the instruction has, each with its own decoder. -/
theorem decodeEncodeRoundTrip : Obligations.DecodeEncodeRoundTrip := by
  unfold Obligations.DecodeEncodeRoundTrip
  intro i hi
  cases he : encode i with
  | cmd68 w => exact decodeCommand_of_encode hi he
  | hdr16 h => exact decodeHeader_of_encode hi he

/-- Settles O4: the pair is quotient and remainder by 1024, which is the only one in range. -/
theorem everyHeaderMeansOnePair : Obligations.EveryHeaderMeansOnePair := by
  unfold Obligations.EveryHeaderMeansOnePair
  intro h
  have hlt := h.isLt
  have hdec := decodeHeader_eq h
  exact ⟨h.toNat / 1024, h.toNat % 1024, by omega, by omega, by omega, hdec, hdec ▸ encode_decodeHeader h,
    fun c p hc hp he => ⟨by omega, by omega⟩⟩

/-! ### Commands and their ignored fields -/

/-- The codes whose operation reads the field `a` (R100). -/
def codesReadingA : List (BitVec 4) := [0x1#4, 0x2#4, 0x3#4, 0x4#4, 0x5#4, 0x6#4, 0x8#4, 0x9#4, 0xA#4]

/-- The codes whose operation reads the field `b` (R100). -/
def codesReadingB : List (BitVec 4) := [0x5#4, 0x8#4, 0x9#4, 0xA#4]

/-- The codes that read `a` and ignore `b` (R100). -/
def codesIgnoringB : List (BitVec 4) := [0x1#4, 0x2#4, 0x3#4, 0x4#4, 0x6#4]

/-- The codes that ignore both fields, those of no operation among them (R100, R191). -/
def codesIgnoringBoth : List (BitVec 4) := [0x0#4, 0x7#4, 0xB#4, 0xC#4, 0xD#4, 0xE#4, 0xF#4]

/-- A command word as the encoder writes it: 0 in each field that the code ignores (R102). -/
def canonicalWord (op : BitVec 4) (a b : Nat) : CommandWord :=
  commandWord op (if op ∈ codesReadingA then a else 0) (if op ∈ codesReadingB then b else 0)

theorem not_reading_of_mem_codesIgnoringB {op : BitVec 4} (h : op ∈ codesIgnoringB) : op ∉ codesReadingB :=
  (by decide : ∀ op ∈ codesIgnoringB, op ∉ codesReadingB) op h

theorem not_reading_of_mem_codesIgnoringBoth {op : BitVec 4} (h : op ∈ codesIgnoringBoth) :
    op ∉ codesReadingA ∧ op ∉ codesReadingB :=
  (by decide : ∀ op ∈ codesIgnoringBoth, op ∉ codesReadingA ∧ op ∉ codesReadingB) op h

/-- Code by code, the encoder gives back the fields that the decoder has read (R100, R102). -/
theorem encode_decodeFields (op : BitVec 4) (a b : Nat) :
    encode (decodeFields op a b) = .cmd68 (canonicalWord op a b) :=
  opcode_cases (P := fun op => encode (decodeFields op a b) = .cmd68 (canonicalWord op a b))
    (by intro n hn; interval_cases n <;> rfl) op

theorem decodeFields_ignores_b {op : BitVec 4} (h : op ∈ codesIgnoringB) (a b b' : Nat) :
    decodeFields op a b = decodeFields op a b' := by
  simp only [codesIgnoringB, List.mem_cons, List.not_mem_nil, or_false] at h
  rcases h with rfl | rfl | rfl | rfl | rfl <;> rfl

theorem decodeFields_ignores_both {op : BitVec 4} (h : op ∈ codesIgnoringBoth) (a b a' b' : Nat) :
    decodeFields op a b = decodeFields op a' b' := by
  simp only [codesIgnoringBoth, List.mem_cons, List.not_mem_nil, or_false] at h
  rcases h with rfl | rfl | rfl | rfl | rfl | rfl | rfl <;> rfl

/-- What a put together word decodes to, whatever its operands (R99). -/
theorem decodeCommand_commandWord_fields (op : BitVec 4) (a b : Nat) :
    decodeCommand (commandWord op a b) = decodeFields op (a % 2 ^ 32) (bField (commandWord op a b)) := by
  rw [decodeCommand, opField_commandWord, aField_commandWord_mod]

/-- Two command words that decode alike make the same step, outcome and state. -/
theorem step_congr_of_decodeCommand {w w' : CommandWord} (h : decodeCommand w = decodeCommand w') (s : State)
    (rest : List HostMove) :
    step { s with host := .command w :: rest } = step { s with host := .command w' :: rest } := by
  rw [step_of_command (w := w) (rest := rest) rfl, step_of_command (w := w') (rest := rest) rfl, h]
  rfl

/-- Settles O2: code by code for a command word; a header word is put together again from its sizes. -/
theorem encodeDecodeGivesTheCanonicalWord : Obligations.EncodeDecodeGivesTheCanonicalWord := by
  unfold Obligations.EncodeDecodeGivesTheCanonicalWord
  exact ⟨fun w => encode_decodeFields (opField w) (aField w) (bField w), encode_decodeHeader⟩

/-- Settles O3: words that differ in an ignored field decode alike, and the canonical word has 0 there. -/
theorem ignoredFieldsHaveNoEffect : Obligations.IgnoredFieldsHaveNoEffect := by
  unfold Obligations.IgnoredFieldsHaveNoEffect
  refine ⟨fun s rest op a b b' hop => step_congr_of_decodeCommand ?_ s rest,
    fun s rest op a b a' b' hop => step_congr_of_decodeCommand ?_ s rest, fun w w' he => ?_⟩
  · rw [decodeCommand_commandWord_fields, decodeCommand_commandWord_fields]
    exact decodeFields_ignores_b hop _ _ _
  · rw [decodeCommand_commandWord_fields, decodeCommand_commandWord_fields]
    exact decodeFields_ignores_both hop _ _ _ _
  · obtain rfl : canonicalWord (opField w) (aField w) (bField w) = w' :=
      CodeWord.cmd68.inj ((encode_decodeFields _ _ _).symm.trans he)
    refine ⟨fun hop => ?_, fun hop => ?_⟩
    · rw [canonicalWord, if_neg (not_reading_of_mem_codesIgnoringB hop), bField_commandWord _ _ _ (by decide)]
    · obtain ⟨ha, hb⟩ := not_reading_of_mem_codesIgnoringBoth hop
      rw [canonicalWord, if_neg ha, if_neg hb]
      exact ⟨aField_commandWord _ _ _ (by decide), bField_commandWord _ _ _ (by decide)⟩

/-! ### Every word is an instruction -/

theorem wellFormed_decodeFields (op : BitVec 4) {a b : Nat} (ha : a < 2 ^ 32) (hb : b < 2 ^ 32) :
    WellFormed (decodeFields op a b) = true := by
  have ha' := (fitsField_iff 32 a).2 ha
  have hb' := (fitsField_iff 32 b).2 hb
  exact opcode_cases (P := fun op => WellFormed (decodeFields op a b) = true)
    (by intro n hn; interval_cases n <;> simp [WellFormed, ha', hb']) op

theorem wellFormed_decodeHeader (h : HeaderWord) : WellFormed (decodeHeader h) = true :=
  (Bool.and_eq_true _ _).mpr ⟨(fitsField_iff 6 _).2 (BitVec.isLt _), (fitsField_iff 10 _).2 (BitVec.isLt _)⟩

/-- Settles O6: a decoded operand is the value of its field, which its width bounds. -/
theorem everyCodeWordDecodesWellFormed : Obligations.EveryCodeWordDecodesWellFormed := by
  unfold Obligations.EveryCodeWordDecodesWellFormed
  intro x
  cases x with
  | cmd68 w => exact wellFormed_decodeFields (opField w) (aField_lt w) (bField_lt w)
  | hdr16 h => exact wellFormed_decodeHeader h

/-- Settles O10: each word is closed and is decoded by evaluation. -/
theorem wordsOfTheSpecDecode : Obligations.WordsOfTheSpecDecode := by
  unfold Obligations.WordsOfTheSpecDecode
  exact ⟨rfl, rfl, rfl, rfl, rfl, rfl, rfl, rfl, rfl, rfl⟩

end Sys2Proof.Machine
end

section
/-! The record header on the wire: its arithmetic in both directions (R92 to R94), the PARSE that takes it, and the
packet it declares, received whole or cut short (R141, R142, R144). -/

namespace Sys2Proof.Machine

variable {s t : State} {c p : Nat}

/-! ### The two directions of the header arithmetic -/

theorem headerByte0_packHeader_toNat (hc : c ≤ 63) (hp : p ≤ 1023) :
    (headerByte0 (packHeader c p)).toNat = c * 4 + p / 256 := by
  rw [headerByte0_toNat, packHeader_toNat c p hc hp]
  omega

theorem headerByte1_packHeader_toNat (hc : c ≤ 63) (hp : p ≤ 1023) :
    (headerByte1 (packHeader c p)).toNat = p % 256 := by
  rw [headerByte1_toNat, packHeader_toNat c p hc hp]
  omega

theorem extradataSize_packHeader_toNat (hc : c ≤ 63) (hp : p ≤ 1023) :
    (extradataSize (headerByte0 (packHeader c p))).toNat = c := by
  rw [extradataSize_toNat, headerByte0_packHeader_toNat hc hp]
  omega

theorem framedataSize_packHeader_toNat (hc : c ≤ 63) (hp : p ≤ 1023) :
    (framedataSize (headerByte0 (packHeader c p)) (headerByte1 (packHeader c p))).toNat = p := by
  rw [framedataSize_toNat, headerByte0_packHeader_toNat hc hp, headerByte1_packHeader_toNat hc hp]
  omega

/-- Packing the two sizes that were extracted gives the two bytes back (R92, R93). -/
theorem packHeader_extractedSizes (b0 b1 : Byte) :
    packHeader (extradataSize b0).toNat (framedataSize b0 b1).toNat = headerOfBytes b0 b1 := by
  apply BitVec.eq_of_toNat_eq
  rw [packHeader_toNat _ _ (Nat.le_of_lt_succ (BitVec.isLt _)) (Nat.le_of_lt_succ (BitVec.isLt _)),
    headerOfBytes_toNat, extradataSize_toNat, framedataSize_toNat]
  omega

/-- Settles O5: from the formula of each direction. -/
theorem headerFormulasBothWays : Obligations.HeaderFormulasBothWays := by
  unfold Obligations.HeaderFormulasBothWays
  exact ⟨fun b0 b1 => ⟨extradataSize_toNat b0, framedataSize_toNat b0 b1, packetSize_toNat _ _,
      packHeader_extractedSizes b0 b1⟩,
    fun c p hc hp => ⟨packHeader_toNat c p hc hp, headerByte0_packHeader_toNat hc hp,
      headerByte1_packHeader_toNat hc hp, extradataSize_packHeader_toNat hc hp,
      framedataSize_packHeader_toNat hc hp⟩⟩

/-! ### The PARSE that takes the header -/

theorem decodeCommand_of_parse {w : CommandWord} (h : opField w = 0xB#4) : decodeCommand w = .parse := by
  rw [decodeCommand, h, decodeFields_parse]

/-- Settles O8: the two bytes are a header word, and a PARSE with that word next on IN is its meaning. -/
theorem parseRunsTheHeaderOnTheWire : Obligations.ParseRunsTheHeaderOnTheWire := by
  unfold Obligations.ParseRunsTheHeaderOnTheWire
  intro s w rest b0 b1 bytes hhost hop hph hin
  have hdec := decodeHeader_eq (headerOfBytes b0 b1)
  have hval := headerOfBytes_toNat b0 b1
  have hwire : s.inp.bytes =
      headerByte0 (headerOfBytes b0 b1) :: headerByte1 (headerOfBytes b0 b1) :: bytes := by
    rw [headerByte0_headerOfBytes, headerByte1_headerOfBytes, hin]
  refine ⟨(headerOfBytes b0 b1).toNat / 1024, (headerOfBytes b0 b1).toNat % 1024, ?_, by omega, ?_⟩
  · rw [hin, decodeWire, hdec]
  · rw [step_of_command hhost, decodeCommand_of_parse hop,
      exec_parse_of_header (s := s.setHost rest) hph hwire, hdec]
    rfl

/-! ### The packet -/

/-- The packet of the decoded header, when IN holds all of it (R142). -/
theorem receivePacket_of_enough {pkt rest : List Byte} (hb : s.inp.bytes = pkt ++ rest)
    (hl : pkt.length = s.psz.toNat) :
    receivePacket s = .next (((s.setIn ⟨rest, s.inp.ending⟩).storePacket pkt).deliver.finish .ok) := by
  have hread := inRead_append s pkt rest hb
  rw [hl] at hread
  rw [receivePacket, hread]
  exact if_neg (Nat.not_lt.2 hl.ge)

/-- The packet of the decoded header, when IN ends inside it (R144). -/
theorem receivePacket_of_ended (hl : s.inp.bytes.length < s.psz.toNat) (he : s.inp.ending = .eos) :
    receivePacket s = .next (((s.setIn ⟨[], .eos⟩).storePacket s.inp.bytes).finish .eTruncated) := by
  rw [receivePacket, inRead_of_ended _ s hl he]
  exact if_pos hl

/-- Two blobs that stand one after the other in RXBUF, with XSZ and FSZ their lengths, are the held record (R36). -/
theorem record?_of_rxbuf {blob payload : List Byte} (hr : t.recv = true) (hx : t.xsz.toNat = blob.length)
    (hf : t.fsz.toNat = payload.length)
    (hb : ∀ j, j < (blob ++ payload).length → t.rxbuf.read? j = (blob ++ payload)[j]?) :
    t.record? = some (blob, payload) := by
  have hread : t.readBytes .rxbuf 0 (blob ++ payload).length = blob ++ payload :=
    State.readBytes_of_read? t .rxbuf 0 _ (by simpa using hb)
  rw [List.length_append, State.readBytes_add, Nat.zero_add] at hread
  obtain ⟨hblob, hpayload⟩ := List.append_inj hread (State.length_readBytes ..)
  rw [State.record?, if_pos hr, hx, hf, hblob, hpayload]

theorem record?_eq_none (hr : t.recv = false) : t.record? = none := by
  rw [State.record?, hr]
  rfl

theorem recv_of_record? {r : Record} (h : t.record? = some r) : t.recv = true := by
  by_contra hr
  rw [record?_eq_none (Bool.eq_false_of_not_eq_true hr)] at h
  cases h

/-! ### The header's meaning -/

/-- The parser's state once it has taken the header of sizes `c` and `p` (R141). -/
def withHeader (c p : Nat) (s : State) : State :=
  withHeaderBytes (headerByte0 (headerWord c p)) (headerByte1 (headerWord c p)) s

/-- The header registers and the lengths are those of the header of sizes `c` and `p` (R92, R94, R141). -/
def HoldsHeader (c p : Nat) (t : State) : Prop :=
  t.hgot = 2#2 ∧ t.b0.toNat = c * 4 + p / 256 ∧ t.b1.toNat = p % 256 ∧ t.xsz.toNat = c ∧ t.fsz.toNat = p ∧
    t.psz.toNat = c + p

theorem holdsHeader_withHeader (hc : c ≤ 63) (hp : p ≤ 1023) (s : State) : HoldsHeader c p (withHeader c p s) := by
  rw [withHeader, headerWord_eq_packHeader c p hc hp]
  have hx := extradataSize_packHeader_toNat hc hp
  have hf := framedataSize_packHeader_toNat hc hp
  exact ⟨rfl, headerByte0_packHeader_toNat hc hp, headerByte1_packHeader_toNat hc hp, hx, hf,
    (packetSize_toNat _ _).trans (congrArg₂ (· + ·) hx hf)⟩

/-- In HDR0 the header's meaning is to receive the packet it declares (R141). -/
theorem exec_recordHeader_of_hdr0 (h : s.ph = .hdr0) :
    exec (.recordHeader c p) s = receivePacket (withHeader c p s) := by
  rw [exec, execRecordHeader, h]
  rfl

theorem exec_recordHeader_of_done (h : s.ph = .done) : exec (.recordHeader c p) s = .next (s.finish .eos) := by
  rw [exec, execRecordHeader, h]

theorem exec_recordHeader_of_error (h : s.ph = .error) :
    exec (.recordHeader c p) s = .next (s.finish .eTruncated) := by
  rw [exec, execRecordHeader, h]

/-- A result that leaves the phase as it was changes STATUS and FLAGS only (R210). -/
theorem State.finish_of_phase_kept {r : Status} (h : r.phaseAfter s.ph = s.ph) :
    s.finish r = { s with status := r, flags := s.flags ||| r.flagMask } := by
  rw [State.finish_frame, h]

/-- The header registers stay when the packet is stored and the record delivered (R141, R142). -/
theorem HoldsHeader.received (h : HoldsHeader c p s) (i : InStream) (pkt : List Byte) :
    HoldsHeader c p (((s.setIn i).storePacket pkt).deliver.finish .ok) := by
  simpa [HoldsHeader] using h

/-- The header registers stay when the part of the packet that arrived is stored (R144). -/
theorem HoldsHeader.truncated (h : HoldsHeader c p s) (i : InStream) (part : List Byte) :
    HoldsHeader c p (((s.setIn i).storePacket part).finish .eTruncated) := by
  simpa [HoldsHeader] using h

/-- Two blobs of the lengths XSZ and FSZ, stored as the packet and delivered, are the held record (R142). -/
theorem record?_received {blob payload : List Byte} (hx : s.xsz.toNat = blob.length)
    (hf : s.fsz.toNat = payload.length) (i : InStream) :
    (((s.setIn i).storePacket (blob ++ payload)).deliver.finish .ok).record? = some (blob, payload) :=
  record?_of_rxbuf (by simp) (by simpa using hx) (by simpa using hf) fun j hj => by
    simpa using Memory.read?_writeBytes_inside s.rxbuf 0 j (blob ++ payload) hj

/-- All but the parser, IN, STATUS and FLAGS is as before: the frame of a PARSE and of its header (R141). -/
def RestKept (s t : State) : Prop := WriterKept s t ∧ SourcesKept s t ∧ t.out = s.out ∧ ModelKept s t

theorem withHeader_restKept (c p : Nat) (s : State) : RestKept s (withHeader c p s) := by
  simp [withHeader, withHeaderBytes, RestKept, WriterKept, SourcesKept, ModelKept]

theorem RestKept.received (h : RestKept s t) (i : InStream) (pkt : List Byte) :
    RestKept s (((t.setIn i).storePacket pkt).deliver.finish .ok) := by
  simpa [RestKept, WriterKept, SourcesKept, ModelKept] using h

theorem RestKept.truncated (h : RestKept s t) (i : InStream) (part : List Byte) :
    RestKept s (((t.setIn i).storePacket part).finish .eTruncated) := by
  simpa [RestKept, WriterKept, SourcesKept, ModelKept] using h

/-- What taking the header leaves of the parser's side: RXBUF, IN and FLAGS; no record is held (R141). -/
theorem withHeader_parser (c p : Nat) (s : State) :
    (withHeader c p s).flags = s.flags ∧ (withHeader c p s).rxbuf = s.rxbuf ∧ (withHeader c p s).inp = s.inp ∧
      (withHeader c p s).recv = false := by
  simp [withHeader, withHeaderBytes]

/-- Settles O27: the packet is received whole, and the record is read back from RXBUF, or it is cut short. -/
theorem headerOnTheWireReceivesItsPacket : Obligations.HeaderOnTheWireReceivesItsPacket := by
  unfold Obligations.HeaderOnTheWireReceivesItsPacket
  intro c p s hc hp hph
  have hheader := holdsHeader_withHeader hc hp s
  have hrest := withHeader_restKept c p s
  obtain ⟨hflags, hrxbuf, hinp, hrecv⟩ := withHeader_parser c p s
  rw [exec_recordHeader_of_hdr0 hph, ← hflags, ← hrxbuf, ← hinp]
  generalize withHeader c p s = u at *
  have ⟨_, _, _, hx, hf, hz⟩ := hheader
  refine ⟨fun blob payload rest hblob hpayload hin => ?_, fun hshort hend => ?_⟩
  · have hlen : (blob ++ payload).length = u.psz.toNat := by
      rw [List.length_append, hblob, hpayload, hz]
    obtain ⟨hgot, -⟩ := packetStored_storePacket (s := u.setIn ⟨rest, u.inp.ending⟩) hlen
    have hrecord := record?_received (hx.trans hblob.symm) (hf.trans hpayload.symm) ⟨rest, u.inp.ending⟩
    obtain ⟨hhgot, hb0, hb1, hxsz, hfsz, hpsz⟩ := hheader.received ⟨rest, u.inp.ending⟩ (blob ++ payload)
    refine ⟨_, receivePacket_of_enough hin hlen, rfl, by simp, rfl, hrecord, hhgot, hb0, hb1, hxsz, hfsz, hpsz, hgot,
      fun a ha => ?_, rfl, hrest.received _ _⟩
    exact Memory.read?_writeBytes_outside u.rxbuf 0 a _ (by rwa [hlen, hz, Nat.zero_add])
  · have hgot : u.inp.bytes.length % 2 ^ 11 = u.inp.bytes.length := Nat.mod_eq_of_lt (by omega)
    obtain ⟨hhgot, hb0, hb1, hxsz, hfsz, hpsz⟩ := hheader.truncated ⟨[], .eos⟩ u.inp.bytes
    refine ⟨_, receivePacket_of_ended (hz ▸ hshort) hend, rfl, rfl, rfl, hrecv, record?_eq_none hrecv, hhgot, hb0,
      hb1, hxsz, hfsz, hpsz, (BitVec.toNat_ofNat _ _).trans hgot, fun j hj => ?_, fun a ha => ?_, rfl,
      hrest.truncated _ _⟩
    · simpa using Memory.read?_writeBytes_inside u.rxbuf 0 j u.inp.bytes hj
    · exact Memory.read?_writeBytes_outside u.rxbuf 0 a u.inp.bytes (by rwa [Nat.zero_add])

/-- Settles O55: the packet is the front of IN, split after `c` bytes; DONE and ERROR are left as they are. -/
theorem headerOnTheWireCompletes : Obligations.HeaderOnTheWireCompletes := by
  unfold Obligations.HeaderOnTheWireCompletes
  intro c p s hc hp
  refine ⟨fun hph hl => ?_, fun hph => ?_, fun hph => ?_⟩
  · have hsplit : s.inp.bytes =
        s.inp.bytes.take c ++ (s.inp.bytes.drop c).take p ++ s.inp.bytes.drop (c + p) := by
      rw [← List.take_add, List.take_append_drop]
    obtain ⟨t, ht, hok, -, hph', hrec, -, -, -, -, -, -, -, -, hin, -⟩ :=
      (headerOnTheWireReceivesItsPacket c p s hc hp hph).1 _ _ _ (List.length_take_of_le (by omega))
        (List.length_take_of_le (by rw [List.length_drop]; omega)) hsplit
    exact ⟨t, ht, hok, hph', recv_of_record? hrec, hrec, congrArg InStream.bytes hin⟩
  · rw [exec_recordHeader_of_done hph, State.finish_of_phase_kept (by rw [hph]; rfl)]
    rfl
  · rw [exec_recordHeader_of_error hph, State.finish_of_phase_kept (by rw [hph]; rfl)]
    rfl

end Sys2Proof.Machine
end

section
/-! The byte_writer (R120 to R128): a write operation as its range check and one write at the cursor, SETCUR and FLUSH
as exact next states, and a sequence of writes as one write of the concatenation. -/

namespace Sys2Proof.Machine

variable {s t : State} {i : Instr} {bs : List Byte} {k a n : Nat}

/-! ### The two refusals of the byte_writer -/

/-- The value check fails: STATUS and its flag, and nothing else (R205, R210). -/
theorem State.finish_eValueRange (s : State) :
    s.finish .eValueRange = { s with status := .eValueRange, flags := s.flags ||| 0b010000#6 } := rfl

/-- The room check fails: STATUS and its flag, and nothing else (R204, R210). -/
theorem State.finish_eOverflow (s : State) :
    s.finish .eOverflow = { s with status := .eOverflow, flags := s.flags ||| 0b001000#6 } := rfl

/-! ### One write at the cursor -/

/-- Byte `j` of a read from address 0 is the byte at address `j`. -/
theorem State.getElem?_readBytes_zero (s : State) (b : Buf) {j : Nat} (h : j < n) :
    (s.readBytes b 0 n)[j]? = some (s.byteAt b j) := by
  rw [State.getElem?_readBytes s b 0 n j h, Nat.zero_add]

/-- The `k` bytes that `f` lists stand at the old cursor, the cursor is past them, and all else is as before (R120). -/
def Stored (k : Nat) (f : Nat → Byte) (s t : State) : Prop :=
  t.status = .ok ∧ t.flags = s.flags ∧ t.wcur = s.wcur + k ∧
    (∀ j, j < k → t.obuf.read? (s.wcur + j) = some (f j)) ∧
    KeptOutside s.wcur (s.wcur + k) s.obuf t.obuf ∧
    t.hdr = s.hdr ∧ t.wlen = s.wlen ∧ ParserKept s t ∧ SourcesKept s t ∧ t.inp = s.inp ∧ t.out = s.out ∧
    ModelKept s t

theorem writeAtCursor_stored {f : Nat → Byte} (hlen : bs.length = k) (hroom : s.wcur + k ≤ s.cfg.obufCap)
    (hf : ∀ j, j < k → bs[j]? = some (f j)) : Stored k f s (writeAtCursor bs s) := by
  subst hlen
  obtain ⟨hok, hflags, hwcur, hbytes, hrest⟩ := wrote_frame s _ bs (writeAtCursor_fits bs s hroom)
  exact ⟨hok, hflags, hwcur, fun j hj => (hbytes j hj).trans (hf j hj), hrest⟩

/-! ### The fixed-width writes -/

/-- `i` is the write of the operand `a` in `k` bytes (R121 to R124). -/
def IsFixedWidthWrite (i : Instr) (k a : Nat) : Prop :=
  i = .wr8 a ∧ k = 1 ∨ i = .wr16 a ∧ k = 2 ∨ i = .wr24 a ∧ k = 3 ∨ i = .wr32 a ∧ k = 4

/-- The four operations are one range check and one write; what fits the field of WR32 is in its range (R124). -/
theorem exec_fixedWidthWrite (h : IsFixedWidthWrite i k a) (hw : WellFormed i = true) (s : State) :
    exec i s = if 2 ^ (8 * k) ≤ a then .next (s.finish .eValueRange) else .next (writeAtCursor (bytesBE k a) s) := by
  rcases h with ⟨rfl, rfl⟩ | ⟨rfl, rfl⟩ | ⟨rfl, rfl⟩ | ⟨rfl, rfl⟩
  · rfl
  · rfl
  · rfl
  · exact (if_neg (Nat.not_le.2 ((fitsField_iff 32 a).1 hw))).symm

/-- Settles O11: by the range check and then the room check; the bytes are those of the big-endian form. -/
theorem fixedWidthWritesStoreBigEndian : Obligations.FixedWidthWritesStoreBigEndian := by
  unfold Obligations.FixedWidthWritesStoreBigEndian
  intro i k a s h hw
  have hexec := exec_fixedWidthWrite h hw s
  have hlen : (bytesBE k a).length = k := length_bytesBE k a
  refine ⟨fun hbig => ?_, fun hin hfull => ?_, fun hin hroom => ?_⟩
  · rw [hexec, if_pos hbig, State.finish_eValueRange]
  · rw [hexec, if_neg (Nat.not_le.2 hin), writeAtCursor_overflow _ _ (by rwa [hlen]), State.finish_eOverflow]
  · exact ⟨_, hexec.trans (if_neg (Nat.not_le.2 hin)), writeAtCursor_stored hlen hroom (getElem?_bytesBE k a)⟩

/-! ### WRN -/

/-- The operands of a WRN that pass its check: the source is selected and has room for the count (R125). -/
def SelectsSource (sel n : Nat) (src : Buf) : Prop :=
  sel = 0 ∧ n ≤ 63 ∧ src = .cfgbuf ∨ sel = 1 ∧ n ≤ 1023 ∧ src = .paybuf

theorem exec_wrn_of_selectsSource {sel : Nat} {src : Buf} (h : SelectsSource sel n src) (s : State) :
    exec (.wrn sel n) s = .next (writeAtCursor (s.readBytes src 0 n) s) := by
  rcases h with ⟨rfl, hn, rfl⟩ | ⟨rfl, hn, rfl⟩
  · exact if_neg (Nat.not_lt.2 hn)
  · exact if_neg (Nat.not_lt.2 hn)

theorem exec_wrn_of_out_of_range {sel : Nat} (h : 1 < sel ∨ (sel = 0 ∧ 63 < n) ∨ (sel = 1 ∧ 1023 < n)) (s : State) :
    exec (.wrn sel n) s = .next (s.finish .eValueRange) := by
  rcases h with hsel | ⟨rfl, hn⟩ | ⟨rfl, hn⟩
  · obtain ⟨m, rfl⟩ := Nat.exists_eq_add_of_le' hsel
    rfl
  · exact if_pos hn
  · exact if_pos hn

/-- Settles O12: by the operand check and then the room check; the bytes are those read from the source. -/
theorem rawCopyCopiesTheSource : Obligations.RawCopyCopiesTheSource := by
  unfold Obligations.RawCopyCopiesTheSource
  intro sel n s
  refine ⟨fun h => by rw [exec_wrn_of_out_of_range h, State.finish_eValueRange], fun src h => ?_⟩
  have hlen : (s.readBytes src 0 n).length = n := s.length_readBytes src 0 n
  refine ⟨fun hfull => ?_, fun hroom => ?_⟩
  · rw [exec_wrn_of_selectsSource h, writeAtCursor_overflow _ _ (by rwa [hlen]), State.finish_eOverflow]
  · exact ⟨_, exec_wrn_of_selectsSource h s,
      writeAtCursor_stored hlen hroom fun _ hj => State.getElem?_readBytes_zero s src hj⟩

/-! ### SETCUR and FLUSH -/

/-- Settles O13: by the room check. -/
theorem setcurSetsTheCursor : Obligations.SetcurSetsTheCursor := by
  unfold Obligations.SetcurSetsTheCursor
  intro p s
  refine ⟨fun hp => ?_, fun hp => ?_⟩
  · rw [exec, execSetcur, if_pos hp, State.finish_eOverflow]
  · rw [exec, execSetcur, if_neg (Nat.not_lt.2 hp), State.finish_ok]
    rfl

/-- A FLUSH whose append is taken ends OK (R127). -/
theorem exec_flush_of_outAppend (h : outAppend (s.readBytes .obuf 0 s.wcur) s = some t) :
    exec .flush s = .next ((t.committed s.wcur).finish .ok) := by
  rw [exec, execFlush, appendUnit, h]

/-- Settles O14: the bytes below the cursor are the unit, and the append changes OUT alone. -/
theorem flushAppendsTheWrittenBytes : Obligations.FlushAppendsTheWrittenBytes := by
  unfold Obligations.FlushAppendsTheWrittenBytes
  intro s hsink
  have hlen : (s.readBytes .obuf 0 s.wcur).length = s.wcur := s.length_readBytes .obuf 0 s.wcur
  obtain ⟨t, ht⟩ := outAppend_of_takes (s.readBytes .obuf 0 s.wcur) s (by rwa [hlen])
  obtain ⟨hbytes, hunits, haccepts, hframe⟩ := outAppend_spec ht
  have hempty : s.readBytes .obuf 0 s.wcur = [] ↔ s.wcur = 0 := by rw [← List.length_eq_zero_iff, hlen]
  simp only [hempty] at hunits
  rw [hlen] at haccepts
  refine ⟨_, _, exec_flush_of_outAppend ht, hlen, fun _ hj => State.getElem?_readBytes_zero s .obuf hj, hbytes, hunits,
    haccepts, ?_⟩
  rw [hframe]
  simp [ParserKept, SourcesKept, ModelKept]

/-! ### Sequences of writes -/

/-- A write that ends OK had room, and left its bytes at the cursor (R120). -/
theorem Effect.eq_of_write_ok (h : Effect s i t) (hb : bytesWritten s i = some bs) (hok : t.status = .ok) :
    t = ((s.storeObuf s.wcur bs).setCursor (s.wcur + bs.length)).finish .ok := by
  cases h with
  | refused _ r hr =>
    obtain rfl : r = .ok := hok
    simp at hr
  | wrote _ bs' hb' =>
    obtain rfl : bs' = bs := Option.some.inj (hb'.symm.trans hb)
    rfl
  | stillDone => cases hok
  | stillError => cases hok
  | truncated => cases hok
  | received _ _ _ _ _ hi => rcases hi with ⟨rfl, -⟩ | ⟨⟨c, p, rfl, -⟩, -⟩ <;> cases hb
  | _ => cases hb

/-- A run that begins with a write: the write ends OK, and the rest runs from the state it leaves (R128). -/
theorem runWrites_cons {rest : List Instr} (h : runWrites (i :: rest) s = some (bs, t)) :
    ∃ bs₁ bs₂ u, bs = bs₁ ++ bs₂ ∧ runWrites rest u = some (bs₂, t) ∧
      u = ((s.storeObuf s.wcur bs₁).setCursor (s.wcur + bs₁.length)).finish .ok := by
  rw [runWrites] at h
  split at h
  · rename_i bs₁ u hb hu
    split at h
    · rename_i hok
      obtain ⟨⟨bs₂, t'⟩, hrest, heq⟩ := Option.map_eq_some_iff.1 h
      cases heq
      exact ⟨bs₁, bs₂, u, rfl, hrest, (exec_effect hu).eq_of_write_ok hb hok⟩
    · cases h
  · cases h

/-- A sequence of writes that all end OK is one write of the concatenation at the first cursor (R128). -/
theorem runWrites_spec (is : List Instr) (h : runWrites is s = some (bs, t)) :
    t.cfg = s.cfg ∧ t.wcur = s.wcur + bs.length ∧ t.obuf = s.obuf.writeBytes s.wcur bs := by
  induction is generalizing s bs with
  | nil =>
    cases h
    exact ⟨rfl, rfl, rfl⟩
  | cons i rest ih =>
    obtain ⟨bs₁, bs₂, u, rfl, hrest, rfl⟩ := runWrites_cons h
    obtain ⟨hcfg, hwcur, hobuf⟩ := ih hrest
    refine ⟨hcfg, ?_, ?_⟩
    · simp [hwcur, Nat.add_assoc]
    · simp [hobuf, Memory.writeBytes_append]

/-- Settles O15: the sequence is one write, of which the reads inside and outside are known. -/
theorem writeSequencesConcatenate : Obligations.WriteSequencesConcatenate := by
  unfold Obligations.WriteSequencesConcatenate
  intro is s t bs h
  obtain ⟨hcfg, hwcur, hobuf⟩ := runWrites_spec is h
  rw [hobuf]
  refine ⟨hwcur, fun j hj => Memory.read?_writeBytes_inside _ _ _ _ hj,
    fun x hx => Memory.read?_writeBytes_outside _ _ _ _ hx, fun hzero hfull => ?_⟩
  rw [hwcur, hzero, hfull, hcfg, Nat.zero_add]

end Sys2Proof.Machine
end

section
/-! The payload_length_codec and PARSE at transaction level (R140 to R145): UNPACK, the equation of PARSE in each case
of the stream, and what follows for the bytes consumed, the hang, the phases and a whole stream (R156 to R158). -/

namespace Sys2Proof.Machine

variable {s t : State} {b0 b1 : Byte} {rest : List Byte}

/-! ### UNPACK -/

theorem extradataSize_ofNat (v0 : Nat) :
    extradataSize (BitVec.ofNat 8 v0) = BitVec.ofNat 6 (v0 / 4) := by
  apply BitVec.eq_of_toNat_eq
  rw [extradataSize_toNat, BitVec.toNat_ofNat, BitVec.toNat_ofNat]
  omega

theorem framedataSize_ofNat (v0 : Nat) {v1 : Nat} (h1 : v1 ≤ 0xFF) :
    framedataSize (BitVec.ofNat 8 v0) (BitVec.ofNat 8 v1) = BitVec.ofNat 10 (v0 % 4 * 256 + v1) := by
  apply BitVec.eq_of_toNat_eq
  rw [framedataSize_toNat, BitVec.toNat_ofNat, BitVec.toNat_ofNat, BitVec.toNat_ofNat]
  omega

theorem packetSize_ofNat {x f : Nat} (hx : x ≤ 63) (hf : f ≤ 1023) :
    packetSize (BitVec.ofNat 6 x) (BitVec.ofNat 10 f) = BitVec.ofNat 11 (x + f) := by
  apply BitVec.eq_of_toNat_eq
  rw [packetSize_toNat, BitVec.toNat_ofNat, BitVec.toNat_ofNat, BitVec.toNat_ofNat]
  omega

/-- Settles O22: by the range check; operands in range give the three lengths as numbers. -/
theorem unpackDecodesTheHeader : Obligations.UnpackDecodesTheHeader := by
  unfold Obligations.UnpackDecodesTheHeader
  intro v0 v1 s
  refine ⟨fun h => ?_, fun h0 h1 => ?_⟩
  · rw [exec, execUnpack, if_pos h, State.finish_eValueRange]
  · have hx := extradataSize_ofNat v0
    have hf := framedataSize_ofNat v0 h1
    have hz : packetSize (BitVec.ofNat 6 (v0 / 4)) (BitVec.ofNat 10 (v0 % 4 * 256 + v1)) = _ :=
      packetSize_ofNat (by omega) (by omega)
    rw [exec, execUnpack, if_neg (by omega), State.finish_ok, State.setLengths, hx, hf, hz]
    rfl

/-! ### PARSE case by case -/

theorem exec_parse_of_done (h : s.ph = .done) : exec .parse s = .next (s.finish .eos) := by
  rw [exec, execParse, h]

theorem exec_parse_of_error (h : s.ph = .error) : exec .parse s = .next (s.finish .eTruncated) := by
  rw [exec, execParse, h]

/-- Past its phase check a PARSE reads (R141). -/
theorem exec_parse_of_reading (h : s.ph ≠ .done ∧ s.ph ≠ .error) : exec .parse s = parseRecord s := by
  obtain ⟨hdone, herror⟩ := h
  rw [exec, execParse]
  cases hph : s.ph with
  | done => exact absurd hph hdone
  | error => exact absurd hph herror
  | hdr0 | hdr1 | body => rfl

theorem reading_of_hdr0 (h : s.ph = .hdr0) : s.ph ≠ .done ∧ s.ph ≠ .error := by simp [h]

/-- With a header on IN, reading a record is receiving the packet of that header (R141). -/
theorem parseRecord_of_header (hb : s.inp.bytes = b0 :: b1 :: rest) :
    parseRecord s = receivePacket ((withHeaderBytes b0 b1 s).setIn ⟨rest, s.inp.ending⟩) := by
  have hread : inRead 2 s.startParse = some ([b0, b1], s.startParse.setIn ⟨rest, s.inp.ending⟩) :=
    inRead_append s.startParse [b0, b1] rest hb
  rw [parseRecord, hread]
  rfl

/-- With fewer than two bytes before the end, they are all that a PARSE reads (R143). -/
theorem inRead_header_of_ended (hl : s.inp.bytes.length < 2) (he : s.inp.ending = .eos) :
    inRead 2 s.startParse = some (s.inp.bytes, s.startParse.setIn ⟨[], .eos⟩) :=
  inRead_of_ended 2 s.startParse hl he

theorem not_mem_possibleResults_parse {r : Status}
    (h : r = .eFieldTooLarge ∨ r = .eOverflow ∨ r = .eValueRange ∨ r = .eIllegal) :
    r ∉ possibleResults .parse := by
  rcases h with rfl | rfl | rfl | rfl <;> decide

/-- Every effect that is listed for PARSE is the answer of a PARSE: the converse of `exec_effect`. -/
theorem Effect.exec_parse (h : Effect s .parse t) : exec .parse s = .next t := by
  cases h with
  | refused _ r hr hi => exact absurd hi (not_mem_possibleResults_parse hr)
  | wrote _ bs hb => cases hb
  | stillDone _ _ hp => exact exec_parse_of_done hp
  | stillError _ _ hp => exact exec_parse_of_error hp
  | ended hp hb he =>
    rw [exec_parse_of_reading hp, parseRecord, inRead_header_of_ended (by simp [hb]) he, hb]
  | endedStray v hp hb he =>
    rw [exec_parse_of_reading hp, parseRecord, inRead_header_of_ended (by simp [hb]) he, hb]
  | received _ b0 b1 pkt rest hi hp hl =>
    obtain ⟨-, hb⟩ | ⟨⟨_, _, ⟨⟩, -⟩, -⟩ := hi
    rw [exec_parse_of_reading hp, parseRecord_of_header hb]
    exact receivePacket_of_enough rfl (hl.trans (withHeaderBytes_psz b0 b1 s).symm)
  | truncated _ b0 b1 part hi hp he hl =>
    obtain ⟨-, hb⟩ | ⟨⟨_, _, ⟨⟩, -⟩, -⟩ := hi
    rw [exec_parse_of_reading hp, parseRecord_of_header hb]
    exact receivePacket_of_ended (hl.trans_eq (withHeaderBytes_psz b0 b1 s).symm) he

/-- Settles O24: no byte is left, or one stray byte. -/
theorem parseFindsTheCleanEnd : Obligations.ParseFindsTheCleanEnd := by
  unfold Obligations.ParseFindsTheCleanEnd
  intro s hph he hl
  have hp := reading_of_hdr0 hph
  match hb : s.inp.bytes with
  | [] => exact (Effect.ended hp hb he).exec_parse
  | [v] => exact (Effect.endedStray v hp hb he).exec_parse
  | _ :: _ :: _ => simp [hb] at hl

/-! ### A whole record on IN -/

/-- The wire form of a record is its header word, the more significant byte first, and its two blobs (R90, R91). -/
theorem Record.wire_eq {r : Record} (hr : r.fits) :
    r.wire = headerByte0 (headerWord r.1.length r.2.length) :: headerByte1 (headerWord r.1.length r.2.length) ::
      (r.1 ++ r.2) := by
  obtain ⟨hc, hp⟩ := hr
  rw [Record.wire, headerWord_eq_packHeader _ _ hc hp, ← headerByte0_packHeader_toNat hc hp,
    ← headerByte1_packHeader_toNat hc hp, BitVec.ofNat_toNat, BitVec.ofNat_toNat, BitVec.setWidth_eq,
    BitVec.setWidth_eq]

/-- A PARSE with a whole record next on IN takes its header, stores its packet and delivers it (R142). -/
theorem exec_parse_of_record {r : Record} (hph : s.ph = .hdr0) (hr : r.fits) (hb : s.inp.bytes = r.wire ++ rest) :
    exec .parse s = .next ((((withHeader r.1.length r.2.length s).setIn ⟨rest, s.inp.ending⟩).storePacket
      (r.1 ++ r.2)).deliver.finish .ok) := by
  obtain ⟨hc, hp⟩ := hr
  obtain ⟨-, -, -, -, -, hz⟩ := holdsHeader_withHeader hc hp s
  rw [withHeader, withHeaderBytes_psz] at hz
  rw [Record.wire_eq ⟨hc, hp⟩] at hb
  exact (Effect.received .parse _ _ (r.1 ++ r.2) rest (.inl ⟨rfl, hb⟩) (reading_of_hdr0 hph)
    (List.length_append.trans hz.symm)).exec_parse

/-- Settles O23: the state that the record is delivered in, part by part. -/
theorem parseDeliversTheRecord : Obligations.ParseDeliversTheRecord := by
  unfold Obligations.ParseDeliversTheRecord
  intro s r rest hph hr hb
  have hexec := exec_parse_of_record hph hr hb
  have hheader := holdsHeader_withHeader hr.1 hr.2 s
  have hrest := withHeader_restKept r.1.length r.2.length s
  obtain ⟨hflags, hrxbuf, -, -⟩ := withHeader_parser r.1.length r.2.length s
  have hb0 : r.wire[0]? = some (withHeader r.1.length r.2.length s).b0 := by rw [Record.wire_eq hr]; rfl
  have hb1 : r.wire[1]? = some (withHeader r.1.length r.2.length s).b1 := by rw [Record.wire_eq hr]; rfl
  rw [← hflags, ← hrxbuf]
  generalize withHeader r.1.length r.2.length s = u at *
  have ⟨hhgot, _, _, hx, hf, hz⟩ := hheader
  have hlen : (r.1 ++ r.2).length = u.psz.toNat := List.length_append.trans hz.symm
  obtain ⟨hgot, -⟩ := packetStored_storePacket (s := u.setIn ⟨rest, s.inp.ending⟩) hlen
  refine ⟨_, hexec, rfl, by simp, rfl, rfl, record?_received hx hf _, hhgot, hb0, hb1, hx, hf, hz, hgot,
    fun j hj => ?_, fun a ha => ?_, rfl, hrest.received _ _⟩
  · simpa using Memory.read?_writeBytes_inside u.rxbuf 0 j (r.1 ++ r.2) (hlen ▸ hj)
  · exact Memory.read?_writeBytes_outside u.rxbuf 0 a _ (by rwa [hlen, Nat.zero_add])

/-! ### A record cut short -/

theorem withHeaderBytes_restKept (b0 b1 : Byte) (s : State) : RestKept s (withHeaderBytes b0 b1 s) := by
  simp [withHeaderBytes, RestKept, WriterKept, SourcesKept, ModelKept]

/-- GOT counts the bytes of a packet that is cut short: its 11 bits hold fewer than any PSZ (R31). -/
theorem toNat_got_storePacket {part : List Byte} {n : BitVec 11} (h : part.length < n.toNat) (s : State) :
    (s.storePacket part).got.toNat = part.length :=
  (BitVec.toNat_ofNat _ _).trans (Nat.mod_eq_of_lt (h.trans n.isLt))

/-- Settles O25: the state that the truncation is reported in, part by part. -/
theorem parseReportsTheTruncation : Obligations.ParseReportsTheTruncation := by
  unfold Obligations.ParseReportsTheTruncation
  intro s b0 b1 part hph he hb hl
  have hexec := (Effect.truncated .parse b0 b1 part (.inl ⟨rfl, hb⟩) (reading_of_hdr0 hph) he hl).exec_parse
  have hx : (withHeaderBytes b0 b1 s).xsz.toNat = _ := extradataSize_toNat b0
  have hf : (withHeaderBytes b0 b1 s).fsz.toNat = _ := framedataSize_toNat b0 b1
  have hz := withHeaderBytes_psz b0 b1 s
  have hrest := withHeaderBytes_restKept b0 b1 s
  rw [← hz] at hl
  have hsum : (withHeaderBytes b0 b1 s).psz.toNat =
      (withHeaderBytes b0 b1 s).xsz.toNat + (withHeaderBytes b0 b1 s).fsz.toNat := by rw [hx, hf, hz]
  have hgot := toNat_got_storePacket hl ((withHeaderBytes b0 b1 s).setIn ⟨[], .eos⟩)
  refine ⟨_, hexec, rfl, by simp [withHeaderBytes], rfl, rfl, record?_eq_none rfl, rfl, rfl, rfl, hx, hf,
    hsum, hgot, fun j hj => ?_, fun a ha => ?_, rfl, hrest.truncated _ _⟩
  · simpa [withHeaderBytes] using Memory.read?_writeBytes_inside s.rxbuf 0 j part hj
  · exact Memory.read?_writeBytes_outside s.rxbuf 0 a part (by rwa [Nat.zero_add])

/-! ### After the stop -/

/-- Only a reset leaves DONE and ERROR (R145). -/
theorem Effect.stays_stopped {i : Instr} (h : Effect s i t) (hs : s.ph = .done ∨ s.ph = .error) (hi : i ≠ .reset) :
    t.ph = s.ph := by
  rcases h.phase with hph | hreset | ⟨-, hdone, herror⟩
  · exact hph
  · exact absurd hreset hi
  · exact absurd hs (not_or.2 ⟨hdone, herror⟩)

theorem step_stays_stopped (h : step s = .next t) (hs : s.ph = .done ∨ s.ph = .error) :
    t.ph = s.ph ∨ resetIsNext s := by
  rcases step_cases h with ⟨-, rfl⟩ | ⟨w, moves, e, he⟩ | ⟨src, a, v, moves, -, -, rfl⟩ |
    ⟨stream, moves, -, -, rfl⟩ | ⟨moves, e, -⟩
  · exact .inl rfl
  · by_cases hw : decodeCommand w = .reset
    · exact .inr ((resetIsNext_cons_iff e).2 (.inr ⟨w, rfl, hw⟩))
    · exact .inl (he.stays_stopped hs hw)
  · exact .inl rfl
  · exact .inl rfl
  · exact .inr ((resetIsNext_cons_iff e).2 (.inl rfl))

/-- Settles O26: the result taken again, and that only a reset leaves the two phases. -/
theorem parseAfterTheStopReadsNothing : Obligations.ParseAfterTheStopReadsNothing := by
  unfold Obligations.ParseAfterTheStopReadsNothing
  refine ⟨fun s hp => ?_, fun s hp => ?_, fun i s t hs h hi => (exec_effect h).stays_stopped hs hi,
    fun s t hs h => step_stays_stopped h hs⟩
  · rw [exec_parse_of_done hp, State.finish_of_phase_kept (by rw [hp]; rfl)]
    rfl
  · rw [exec_parse_of_error hp, State.finish_of_phase_kept (by rw [hp]; rfl)]
    rfl

/-- A PARSE that did not end OK is repeated without any change (R145). -/
theorem exec_parse_again (h : exec .parse s = .next t) (hne : t.status ≠ .ok) : exec .parse t = .next t := by
  have again_eos (u : State) : exec .parse (u.finish .eos) = .next (u.finish .eos) := by
    rw [exec_parse_of_done rfl, State.finish_finish]
  have again_eTruncated (u : State) : exec .parse (u.finish .eTruncated) = .next (u.finish .eTruncated) := by
    rw [exec_parse_of_error rfl, State.finish_finish]
  cases exec_effect h with
  | refused _ r hr hi => exact absurd hi (not_mem_possibleResults_parse hr)
  | wrote _ bs hb => cases hb
  | stillDone | ended | endedStray => exact again_eos _
  | stillError | truncated => exact again_eTruncated _
  | received => exact absurd rfl hne

/-! ### The phases -/

/-- The result of a PARSE decides the phase it leaves, whatever phase it started in (R157). -/
theorem Effect.parse_phase (h : Effect s .parse t) :
    (t.status = .ok ∧ t.ph = .hdr0) ∨ (t.status = .eos ∧ t.ph = .done) ∨ (t.status = .eTruncated ∧ t.ph = .error) := by
  cases h with
  | refused _ r hr hi => exact absurd hi (not_mem_possibleResults_parse hr)
  | wrote _ bs hb => cases hb
  | stillDone | ended | endedStray => exact .inr (.inl ⟨rfl, rfl⟩)
  | stillError | truncated => exact .inr (.inr ⟨rfl, rfl⟩)
  | received => exact .inl ⟨rfl, rfl⟩

/-- Settles O33: what any instruction does to PH, and the end of a PARSE and of a RESET. -/
theorem phaseTransitions : Obligations.PhaseTransitions := by
  unfold Obligations.PhaseTransitions
  refine ⟨fun i s t hparse hreset hheader h => ?_, fun s t _ h => (exec_effect h).parse_phase,
    fun s t hph h => ?_, fun s t hph h => ?_, fun s t h => ?_⟩
  · rcases (exec_effect h).phase with hph | hi | ⟨hi | ⟨c, p, hi⟩, -⟩
    · exact hph
    · exact absurd hi hreset
    · exact absurd hi hparse
    · exact absurd hi (hheader c p)
  · obtain rfl := Host.Outcome.next.inj ((exec_parse_of_done hph).symm.trans h)
    exact ⟨rfl, rfl⟩
  · obtain rfl := Host.Outcome.next.inj ((exec_parse_of_error hph).symm.trans h)
    exact ⟨rfl, rfl⟩
  · rw [(exec_effect h).eq_of_reset]
    exact ⟨rfl, rfl⟩

/-! ### The hang -/

/-- Receiving a packet never ends where too few bytes are left and the stream does not end (R221). -/
theorem receivePacket_eq_fault_iff :
    receivePacket s = .fault .inputStalled ↔ s.inp.bytes.length < s.psz.toNat ∧ s.inp.ending = .never := by
  rw [← inRead_eq_none_iff, receivePacket]
  cases inRead s.psz.toNat s with
  | none => simp
  | some p => by_cases hl : p.1.length < s.psz.toNat <;> simp [hl]

/-- Reading a record never ends where IN does not end and has too few bytes for the header, or for the packet of the
header there is (R150, R221). -/
theorem parseRecord_eq_fault_iff :
    parseRecord s = .fault .inputStalled ↔ s.inp.ending = .never ∧
      (s.inp.bytes.length < 2 ∨ ∃ (b0 b1 : Byte) (part : List Byte), s.inp.bytes = b0 :: b1 :: part ∧
        part.length < b0.toNat / 4 + (b0.toNat % 4 * 256 + b1.toNat)) := by
  have short (hl : s.inp.bytes.length < 2) :
      parseRecord s = .fault .inputStalled ↔ s.inp.ending = .never := by
    cases he : s.inp.ending with
    | never => simp [parseRecord, (inRead_eq_none_iff 2 s.startParse).2 ⟨hl, he⟩]
    | eos =>
      rw [parseRecord, inRead_header_of_ended hl he]
      match s.inp.bytes, hl with
      | [], _ => simp
      | [v], _ => simp
  match hb : s.inp.bytes with
  | [] => simp [short (by simp [hb])]
  | [v] => simp [short (by simp [hb])]
  | b0 :: b1 :: part =>
    rw [parseRecord_of_header hb, receivePacket_eq_fault_iff, State.setIn_psz, withHeaderBytes_psz]
    simp [and_comm]

/-- Settles O28: in DONE and ERROR a PARSE ends; past the phase check it waits for the header or for the packet. -/
theorem parseWaitsExactlyWhenInputStalls : Obligations.ParseWaitsExactlyWhenInputStalls := by
  unfold Obligations.ParseWaitsExactlyWhenInputStalls
  intro s
  by_cases hp : s.ph ≠ .done ∧ s.ph ≠ .error
  · rw [exec_parse_of_reading hp, parseRecord_eq_fault_iff]
    simp [hp]
  · refine ⟨fun h => ?_, fun ⟨hdone, herror, _⟩ => absurd ⟨hdone, herror⟩ hp⟩
    by_cases hdone : s.ph = .done
    · rw [exec_parse_of_done hdone] at h
      cases h
    · rw [exec_parse_of_error (not_not.1 fun herror => hp ⟨hdone, herror⟩)] at h
      cases h

/-! ### The bytes consumed -/

/-- Settles O29: by the way the PARSE ends; what it took of IN stands before what is left. -/
theorem bytesConsumedByParse : Obligations.BytesConsumedByParse := by
  unfold Obligations.BytesConsumedByParse
  intro s t h
  cases exec_effect h with
  | refused _ r hr hi => exact absurd hi (not_mem_possibleResults_parse hr)
  | wrote _ bs hb => cases hb
  | stillDone _ _ hp => exact ⟨[], rfl, rfl, fun _ => rfl, fun hne => absurd hp hne⟩
  | stillError _ _ hp => exact ⟨[], rfl, rfl, fun _ => rfl, fun _ hne => absurd hp hne⟩
  | ended hp hb he =>
    exact ⟨[], hb, he.symm, fun _ => rfl, fun _ _ => ⟨by simp, fun _ => ⟨rfl, Nat.zero_lt_two, rfl⟩, by simp⟩⟩
  | endedStray v hp hb he =>
    exact ⟨[v], hb, he.symm, fun hs => absurd hs (not_or.2 hp),
      fun _ _ => ⟨by simp, fun _ => ⟨rfl, Nat.one_lt_two, rfl⟩, by simp⟩⟩
  | received _ b0 b1 pkt rest hi hp hl =>
    obtain ⟨-, hb⟩ | ⟨⟨_, _, ⟨⟩, -⟩, -⟩ := hi
    have hlen : (b0 :: b1 :: pkt).length = 2 + (withHeaderBytes b0 b1 s).psz.toNat := by
      rw [withHeaderBytes_psz, ← hl, List.length_cons, List.length_cons, Nat.add_comm 2]
    exact ⟨b0 :: b1 :: pkt, hb, rfl, fun hs => absurd hs (not_or.2 hp), fun _ _ => ⟨fun _ => hlen, by simp, by simp⟩⟩
  | truncated _ b0 b1 part hi hp he hl =>
    obtain ⟨-, hb⟩ | ⟨⟨_, _, ⟨⟩, -⟩, -⟩ := hi
    have hlt := hl.trans_eq (withHeaderBytes_psz b0 b1 s).symm
    have hgot := toNat_got_storePacket hlt ((withHeaderBytes b0 b1 s).setIn ⟨[], .eos⟩)
    have hlen : (b0 :: b1 :: part).length = 2 + part.length := Nat.add_comm part.length 2
    exact ⟨b0 :: b1 :: part, hb.trans (List.append_nil _).symm, he.symm, fun hs => absurd hs (not_or.2 hp),
      fun _ _ => ⟨by simp, by simp, fun _ => ⟨hlen.trans (congrArg (2 + ·) hgot.symm), hgot.trans_lt hlt, rfl⟩⟩⟩

/-! ### A whole stream -/

theorem parseRecords_succ_of_parse {n : Nat} {r : Record} {rs : List Record} {u : State}
    (h : exec .parse s = .next t) (hok : t.status = .ok) (hr : t.record? = some r)
    (hrs : parseRecords n t = some (rs, u)) : parseRecords (n + 1) s = some (r :: rs, u) := by
  rw [parseRecords, h]
  simp only [if_pos hok, hr, hrs]

/-- One PARSE for each record on IN delivers the records in order and leaves the tail (R97, R158). -/
theorem parseRecords_of_wires {rs : List Record} {tail : List Byte} (hfits : ∀ r ∈ rs, r.fits) (hph : s.ph = .hdr0)
    (hin : s.inp = ⟨(rs.map Record.wire).flatten ++ tail, .eos⟩) :
    ∃ t, parseRecords rs.length s = some (rs, t) ∧ t.ph = .hdr0 ∧ t.inp = ⟨tail, .eos⟩ := by
  induction rs generalizing s with
  | nil => exact ⟨s, rfl, hph, hin⟩
  | cons r rs ih =>
    obtain ⟨hr, hrs⟩ := List.forall_mem_cons.1 hfits
    have hb : s.inp.bytes = r.wire ++ ((rs.map Record.wire).flatten ++ tail) := by simp [hin]
    obtain ⟨u, hu, hok, -, huph, -, hrec, -, -, -, -, -, -, -, -, -, huin, -⟩ :=
      parseDeliversTheRecord s r _ hph hr hb
    obtain ⟨t, ht, htph, htin⟩ := ih hrs huph (huin.trans (by rw [hin]))
    exact ⟨t, parseRecords_succ_of_parse hu hok hrec ht, htph, htin⟩

/-- Settles O32: the records by induction, then the tail is a clean end or a part of a record, and is repeated. -/
theorem wholeStreamParsesToItsRecords : Obligations.WholeStreamParsesToItsRecords := by
  unfold Obligations.WholeStreamParsesToItsRecords
  intro rs tail s hfits hph hin
  obtain ⟨t, ht, htph, htin⟩ := parseRecords_of_wires hfits hph hin
  have hbytes : t.inp.bytes = tail := congrArg InStream.bytes htin
  have hending : t.inp.ending = .eos := congrArg InStream.ending htin
  refine ⟨t, ht, htph, htin, fun hnil => ?_, fun x hx => ?_, fun b0 b1 part hcut hl => ?_⟩
  · have hu := (Effect.ended (reading_of_hdr0 htph) (hbytes.trans hnil) hending).exec_parse
    exact ⟨_, hu, rfl, rfl, exec_parse_again hu (by simp)⟩
  · have hu := (Effect.endedStray x (reading_of_hdr0 htph) (hbytes.trans hx) hending).exec_parse
    exact ⟨_, hu, rfl, rfl, rfl, exec_parse_again hu (by simp)⟩
  · have hu := (Effect.truncated .parse b0 b1 part (.inl ⟨rfl, hbytes.trans hcut⟩) (reading_of_hdr0 htph) hending
      hl).exec_parse
    exact ⟨_, hu, rfl, rfl, exec_parse_again hu (by simp)⟩

end Sys2Proof.Machine
end

section
/-! PARSE as byte-serial steps (R146 to R151) and the detector (R155): what each step comes to, and that the steps of
one PARSE come to what the whole PARSE does (R152). -/

namespace Sys2Proof.Machine

variable {s u : State} {v : Byte} {rest : List Byte}

/-! ### The detector -/

theorem prd_eq_complete_iff (ph : Phase) (got psz : Nat) (t : Token) :
    prd ph got psz t = .complete ↔ ph = .body ∧ got = psz := by
  cases ph with
  | body => cases t <;> simp only [prd] <;> split_ifs <;> simp [*]
  | hdr0 | hdr1 | done | error => cases t <;> simp [prd]

theorem prd_eq_cleanEos_iff (ph : Phase) (got psz : Nat) (t : Token) :
    prd ph got psz t = .cleanEos ↔ (ph = .hdr0 ∨ ph = .hdr1) ∧ t = .eos := by
  cases ph with
  | body => cases t <;> simp only [prd] <;> split_ifs <;> simp
  | hdr0 | hdr1 | done | error => cases t <;> simp [prd]

theorem prd_eq_truncated_iff (ph : Phase) (got psz : Nat) (t : Token) :
    prd ph got psz t = .truncated ↔ ph = .body ∧ got < psz ∧ t = .eos := by
  cases ph with
  | body =>
    cases t with
    | byte v => simp only [prd]; split_ifs <;> simp
    | eos => simp only [prd]; split_ifs <;> simp <;> omega
  | hdr0 | hdr1 | done | error => cases t <;> simp [prd]

/-- A PARSE that has not stored more than its packet goes on only with a byte, and in BODY only short of PSZ (R155). -/
theorem byte_of_prd_eq_goOn {ph : Phase} {got psz : Nat} {t : Token} (hp : ph = .hdr0 ∨ ph = .hdr1 ∨ ph = .body)
    (hle : got ≤ psz) (h : prd ph got psz t = .goOn) : (∃ v, t = .byte v) ∧ ¬ (ph = .body ∧ got = psz) := by
  refine ⟨?_, fun hc => ?_⟩
  · cases t with
    | byte v => exact ⟨v, rfl⟩
    | eos =>
      rcases hp with rfl | rfl | rfl
      · cases h
      · cases h
      · rcases hle.eq_or_lt with he | hlt
        · rw [(prd_eq_complete_iff _ _ _ _).2 ⟨rfl, he⟩] at h
          cases h
        · rw [(prd_eq_truncated_iff _ _ _ _).2 ⟨rfl, hlt, rfl⟩] at h
          cases h
  · rw [(prd_eq_complete_iff _ _ _ _).2 hc] at h
    cases h

/-! ### The steps -/

/-- The packet is complete: the step asks for no token (R149). -/
theorem serialStep_of_complete (hp : s.ph = .body) (hg : s.got = s.psz) :
    serialStep s = .ended (s.deliver.finish .ok) := by
  simp only [serialStep, hp, hg, if_true]

/-- The step takes a token, unless the packet is complete (R147 to R149). -/
def TakesToken (s : State) : Prop := s.ph = .hdr0 ∨ s.ph = .hdr1 ∨ (s.ph = .body ∧ s.got ≠ s.psz)

theorem takesToken_of_not_complete (hp : s.ph = .hdr0 ∨ s.ph = .hdr1 ∨ s.ph = .body)
    (hc : ¬ (s.ph = .body ∧ s.got = s.psz)) : TakesToken s :=
  hp.imp id (·.imp id fun hb => ⟨hb, fun hg => hc ⟨hb, hg⟩⟩)

theorem serialStep_of_no_token (h : TakesToken s) (hn : inNext s = none) : serialStep s = .waits := by
  rcases h with hp | hp | ⟨hp, hg⟩
  · simp only [serialStep, hp, hn]
  · simp only [serialStep, hp, hn]
  · simp only [serialStep, hp, hn, if_neg hg]

theorem serialStep_of_eos_in_header (hp : s.ph = .hdr0 ∨ s.ph = .hdr1) (hn : inNext s = some (.eos, u)) :
    serialStep s = .ended (u.finish .eos) := by
  rcases hp with hp | hp <;> simp only [serialStep, hp, hn]

theorem serialStep_of_eos_in_body (hp : s.ph = .body) (hg : s.got ≠ s.psz) (hn : inNext s = some (.eos, u)) :
    serialStep s = .ended (u.finish .eTruncated) := by
  simp only [serialStep, hp, hn, if_neg hg]

/-- The first header byte (R147). -/
theorem serialStep_of_byte_in_hdr0 (hp : s.ph = .hdr0) (hn : inNext s = some (.byte v, u)) :
    serialStep s = .more ((u.takeByte0 v).setPhase .hdr1) := by
  simp only [serialStep, hp, hn]

/-- The second header byte (R148). -/
theorem serialStep_of_byte_in_hdr1 (hp : s.ph = .hdr1) (hn : inNext s = some (.byte v, u)) :
    serialStep s = .more ((u.takeByte1 v).setPhase .body) := by
  simp only [serialStep, hp, hn]

/-- A byte of the packet (R149). -/
theorem serialStep_of_byte_in_body (hp : s.ph = .body) (hg : s.got ≠ s.psz) (hn : inNext s = some (.byte v, u)) :
    serialStep s = .more (u.storePacketByte v) := by
  simp only [serialStep, hp, hn, if_neg hg]

/-- Everything `InNext()` can answer (R69). -/
theorem inNext_cases {t : Token} (h : inNext s = some (t, u)) :
    (∃ v rest, s.inp.bytes = v :: rest ∧ t = .byte v ∧ u = s.setIn ⟨rest, s.inp.ending⟩) ∨ (t = .eos ∧ u = s) := by
  cases hb : s.inp.bytes with
  | cons v rest =>
    rw [inNext_cons s v rest hb] at h
    cases h
    exact .inl ⟨v, rest, rfl, rfl, rfl⟩
  | nil =>
    cases he : s.inp.ending with
    | eos =>
      rw [inNext_ended s hb he] at h
      cases h
      exact .inr ⟨rfl, rfl⟩
    | never =>
      rw [inNext_waits s hb he] at h
      cases h

theorem toNat_got_storePacketByte (h : s.got.toNat < s.psz.toNat) :
    (s.storePacketByte v).got.toNat = s.got.toNat + 1 := by
  have hpsz := s.psz.isLt
  rw [State.storePacketByte_got, BitVec.toNat_add, show (1#11).toNat = 1 from rfl]
  omega

/-- What a step that takes a byte and goes on leaves: the registers of R147, of R148 or of R149, and the rest of IN. -/
def WentOn (s : State) (v : Byte) (u : State) : Prop :=
  s.inp.bytes = v :: u.inp.bytes ∧ u.inp.ending = s.inp.ending ∧
  (s.ph = .hdr0 → u = { s with ph := .hdr1, b0 := v, hgot := 1#2, inp := u.inp }) ∧
  (s.ph = .hdr1 → u.xsz.toNat = s.b0.toNat / 4 ∧ u.fsz.toNat = s.b0.toNat % 4 * 256 + v.toNat ∧
    u.psz.toNat = u.xsz.toNat + u.fsz.toNat ∧
    u = { s with ph := .body, b1 := v, hgot := 2#2, xsz := u.xsz, fsz := u.fsz, psz := u.psz, inp := u.inp }) ∧
  (s.ph = .body → u.rxbuf.read? s.got.toNat = some v ∧
    KeptOutside s.got.toNat (s.got.toNat + 1) s.rxbuf u.rxbuf ∧ u.got.toNat = s.got.toNat + 1 ∧
    u = { s with rxbuf := u.rxbuf, got := u.got, inp := u.inp })

theorem keptOutside_write (m : Memory) (a : Nat) (v : Byte) : KeptOutside a (a + 1) m (m.write a v) :=
  fun _ hx => Memory.read?_write_other m v (by omega)

/-- A step that takes a byte goes on, phase by phase (R147 to R149). -/
theorem serialStep_of_byte (h : TakesToken s) (hle : s.got.toNat ≤ s.psz.toNat) (hb : s.inp.bytes = v :: rest) :
    ∃ u, serialStep s = .more u ∧ WentOn s v u := by
  have hn := inNext_cons s v rest hb
  rcases h with hp | hp | ⟨hp, hg⟩
  · exact ⟨_, serialStep_of_byte_in_hdr0 hp hn, hb, rfl, fun _ => rfl, by simp [hp], by simp [hp]⟩
  · exact ⟨_, serialStep_of_byte_in_hdr1 hp hn, hb, rfl, by simp [hp],
      fun _ => ⟨extradataSize_toNat s.b0, framedataSize_toNat s.b0 v, packetSize_toNat _ _, rfl⟩, by simp [hp]⟩
  · have hlt : s.got.toNat < s.psz.toNat := hle.lt_of_ne fun he => hg (BitVec.eq_of_toNat_eq he)
    exact ⟨_, serialStep_of_byte_in_body hp hg hn, hb, rfl, by simp [hp], by simp [hp],
      fun _ => ⟨Memory.read?_write_same _ _ _, keptOutside_write _ _ _, toNat_got_storePacketByte hlt, rfl⟩⟩

/-- Settles O31: the detector by phase and token, and each step by what the detector says of it. -/
theorem detectorDecidesEachStep : Obligations.DetectorDecidesEachStep := by
  unfold Obligations.DetectorDecidesEachStep
  refine ⟨fun ph got psz t => ⟨prd_eq_complete_iff ph got psz t, prd_eq_cleanEos_iff ph got psz t,
    prd_eq_truncated_iff ph got psz t⟩, fun s hp hle => ⟨fun t hcomplete => ?_, fun hnot hb he => ?_,
    fun u t hn => ⟨fun hclean => ?_, fun htrunc => ?_, fun hgo => ?_⟩⟩⟩
  · obtain ⟨hbody, hg⟩ := (prd_eq_complete_iff _ _ _ _).1 hcomplete
    rw [serialStep_of_complete hbody (BitVec.eq_of_toNat_eq hg), State.finish_ok]
    rfl
  · exact serialStep_of_no_token (takesToken_of_not_complete hp hnot) (inNext_waits s hb he)
  · obtain ⟨hheader, rfl⟩ := (prd_eq_cleanEos_iff _ _ _ _).1 hclean
    obtain ⟨_, _, -, ⟨⟩, -⟩ | ⟨-, rfl⟩ := inNext_cases hn
    exact serialStep_of_eos_in_header hheader hn
  · obtain ⟨hbody, hlt, rfl⟩ := (prd_eq_truncated_iff _ _ _ _).1 htrunc
    obtain ⟨_, _, -, ⟨⟩, -⟩ | ⟨-, rfl⟩ := inNext_cases hn
    exact serialStep_of_eos_in_body hbody (fun hg => hlt.ne (congrArg BitVec.toNat hg)) hn
  · obtain ⟨⟨v, rfl⟩, hnot⟩ := byte_of_prd_eq_goOn hp hle hgo
    obtain ⟨_, rest, hb, ⟨⟩, -⟩ | ⟨⟨⟩, -⟩ := inNext_cases hn
    have htakes := takesToken_of_not_complete hp fun ⟨hbody, hg⟩ => hnot ⟨hbody, congrArg BitVec.toNat hg⟩
    obtain ⟨u', hstep, hwent⟩ := serialStep_of_byte htakes hle hb
    exact ⟨v, u', rfl, hstep, hwent⟩

/-! ### The run of the steps -/

theorem serialRun_of_ended (n : Nat) (h : serialStep s = .ended u) : serialRun (n + 1) s = .next u := by
  rw [serialRun, h]

theorem serialRun_of_waits (n : Nat) (h : serialStep s = .waits) : serialRun (n + 1) s = .fault .inputStalled := by
  rw [serialRun, h]

theorem serialRun_of_more (n : Nat) (h : serialStep s = .more u) : serialRun (n + 1) s = serialRun n u := by
  rw [serialRun, h]

/-- Storing the next packet byte is having stored a packet that is one byte longer (R149). -/
theorem storePacketByte_storePacket {pre : List Byte} (h : pre.length < s.psz.toNat) (v : Byte) :
    (s.storePacket pre).storePacketByte v = s.storePacket (pre ++ [v]) := by
  have hgot : (BitVec.ofNat 11 pre.length).toNat = pre.length := toNat_got_storePacket h s
  have hnext : BitVec.ofNat 11 pre.length + 1#11 = BitVec.ofNat 11 (pre.length + 1) := (BitVec.ofNat_add _ _).symm
  simp [State.storePacketByte, State.storePacket, hgot, hnext, Memory.writeBytes_append, Memory.writeBytes_cons]

/-- Inside a packet: `pre` of it is stored, and IN goes on with `bytes` (R149). -/
def insidePacket (pre bytes : List Byte) (ending : StreamEnd) (s : State) : State :=
  (s.setIn ⟨bytes, ending⟩).storePacket pre

theorem insidePacket_got_eq_psz_iff {pre bytes : List Byte} {ending : StreamEnd} (hle : pre.length ≤ s.psz.toNat) :
    (insidePacket pre bytes ending s).got = (insidePacket pre bytes ending s).psz ↔ pre.length = s.psz.toNat := by
  refine ⟨fun h => ?_, fun h => (packetStored_storePacket (s := s.setIn ⟨bytes, ending⟩) h).1⟩
  by_contra hne
  have hgot := toNat_got_storePacket (hle.lt_of_ne hne) (s.setIn ⟨bytes, ending⟩)
  exact hne (hgot.symm.trans (congrArg BitVec.toNat h))

theorem serialRun_insidePacket_of_complete (n : Nat) (bytes : List Byte) {pre : List Byte} (ending : StreamEnd)
    (hp : s.ph = .body) (heq : pre.length = s.psz.toNat) :
    serialRun (n + 1) (insidePacket pre bytes ending s) = receivePacket (s.setIn ⟨pre ++ bytes, ending⟩) := by
  have hph : (insidePacket pre bytes ending s).ph = .body := hp
  rw [serialRun_of_ended n (serialStep_of_complete hph ((insidePacket_got_eq_psz_iff heq.le).2 heq)),
    receivePacket_of_enough (s := s.setIn ⟨pre ++ bytes, ending⟩) rfl heq]
  rfl

/-- In BODY the remaining steps come to what receiving the whole packet does: by induction on the bytes that are left
(R149). -/
theorem serialRun_insidePacket (bytes pre : List Byte) (ending : StreamEnd) (hp : s.ph = .body)
    (hle : pre.length ≤ s.psz.toNat) :
    serialRun (bytes.length + 1) (insidePacket pre bytes ending s) =
      receivePacket (s.setIn ⟨pre ++ bytes, ending⟩) := by
  have hph (p b : List Byte) : (insidePacket p b ending s).ph = .body := hp
  induction bytes generalizing pre with
  | nil =>
    rcases hle.eq_or_lt with heq | hlt
    · exact serialRun_insidePacket_of_complete _ _ ending hp heq
    · have hg := mt (insidePacket_got_eq_psz_iff hle (bytes := []) (ending := ending)).1 hlt.ne
      rw [List.append_nil]
      cases ending with
      | eos =>
        rw [serialRun_of_ended _ (serialStep_of_eos_in_body (hph _ _) hg (inNext_ended _ rfl rfl)),
          receivePacket_of_ended hlt rfl]
        rfl
      | never =>
        rw [serialRun_of_waits _ (serialStep_of_no_token (.inr (.inr ⟨hph _ _, hg⟩)) (inNext_waits _ rfl rfl)),
          receivePacket_eq_fault_iff.2 ⟨hlt, rfl⟩]
  | cons v rest ih =>
    rcases hle.eq_or_lt with heq | hlt
    · exact serialRun_insidePacket_of_complete _ _ ending hp heq
    · have hg := mt (insidePacket_got_eq_psz_iff hle (bytes := v :: rest) (ending := ending)).1 hlt.ne
      have hstore : ((insidePacket pre (v :: rest) ending s).setIn ⟨rest, ending⟩).storePacketByte v =
          insidePacket (pre ++ [v]) rest ending s :=
        storePacketByte_storePacket (s := s.setIn ⟨rest, ending⟩) hlt v
      have hstep : serialStep (insidePacket pre (v :: rest) ending s) = _ :=
        serialStep_of_byte_in_body (hph _ _) hg (inNext_cons _ v rest rfl)
      rw [List.length_cons, serialRun_of_more _ hstep]
      refine (congrArg (serialRun _) hstore).trans ((ih (pre ++ [v]) (by simpa using hlt)).trans ?_)
      rw [List.append_assoc, List.singleton_append]

/-- What receiving a packet comes to does not depend on the phase (R141). -/
theorem receivePacket_setPhase (p : Phase) (s : State) : receivePacket (s.setPhase p) = receivePacket s := by
  by_cases hl : s.psz.toNat ≤ s.inp.bytes.length
  · have hlen : (s.inp.bytes.take s.psz.toNat).length = s.psz.toNat := List.length_take_of_le hl
    have hb := (List.take_append_drop s.psz.toNat s.inp.bytes).symm
    rw [receivePacket_of_enough hb hlen, receivePacket_of_enough (s := s.setPhase p) hb hlen]
    rfl
  · cases he : s.inp.ending with
    | eos =>
      rw [receivePacket_of_ended (Nat.not_le.1 hl) he,
        receivePacket_of_ended (s := s.setPhase p) (Nat.not_le.1 hl) he]
      rfl
    | never =>
      rw [receivePacket_eq_fault_iff.2 ⟨Nat.not_le.1 hl, he⟩,
        receivePacket_eq_fault_iff (s := s.setPhase p).2 ⟨Nat.not_le.1 hl, he⟩]

/-- The start action leaves PH at HDR0, where the first step takes the first header byte (R146, R147). -/
theorem serialRun_startParse_cons (n : Nat) (hp : s.ph = .hdr0) (hb : s.inp.bytes = v :: rest) :
    serialRun (n + 1) s.startParse =
      serialRun n (((s.startParse.setIn ⟨rest, s.inp.ending⟩).takeByte0 v).setPhase .hdr1) :=
  serialRun_of_more n (serialStep_of_byte_in_hdr0 hp (inNext_cons s.startParse v rest hb))

/-- The steps of one PARSE come to what the whole PARSE does: by the bytes there are for the header (R152). -/
theorem serialRun_startParse (hp : s.ph = .hdr0) :
    serialRun (s.inp.bytes.length + 1) s.startParse = parseRecord s := by
  have hstart : s.startParse.ph = .hdr0 := hp
  match hb : s.inp.bytes with
  | [] =>
    cases he : s.inp.ending with
    | eos =>
      have hin : s.inp = ⟨[], .eos⟩ := by rw [← hb, ← he]
      rw [serialRun_of_ended _ (serialStep_of_eos_in_header (.inl hstart) (inNext_ended s.startParse hb he)),
        parseRecord, inRead_header_of_ended (by simp [hb]) he, hb, ← hin]
      rfl
    | never =>
      rw [serialRun_of_waits _ (serialStep_of_no_token (.inl hstart) (inNext_waits s.startParse hb he)),
        parseRecord_eq_fault_iff.2 ⟨he, .inl (by simp [hb])⟩]
  | [v] =>
    rw [List.length_singleton, serialRun_startParse_cons _ hp hb]
    cases he : s.inp.ending with
    | eos =>
      rw [serialRun_of_ended _ (serialStep_of_eos_in_header (.inr rfl) (inNext_ended _ rfl rfl)),
        parseRecord, inRead_header_of_ended (by simp [hb]) he, hb]
      rfl
    | never =>
      rw [serialRun_of_waits _ (serialStep_of_no_token (.inr (.inl rfl)) (inNext_waits _ rfl rfl)),
        parseRecord_eq_fault_iff.2 ⟨he, .inl (by simp [hb])⟩]
  | b0 :: b1 :: rest =>
    rw [List.length_cons, List.length_cons, serialRun_startParse_cons _ hp hb,
      serialRun_of_more _ (serialStep_of_byte_in_hdr1 rfl (inNext_cons _ b1 rest rfl)), parseRecord_of_header hb,
      ← receivePacket_setPhase .body]
    exact serialRun_insidePacket (s := (withHeaderBytes b0 b1 s).setPhase .body) rest [] s.inp.ending rfl
      (Nat.zero_le _)

/-- Settles O30: in DONE and ERROR both readings are the same text; in HDR0 the steps come to the whole PARSE. -/
theorem serialParseAgreesWithParse : Obligations.SerialParseAgreesWithParse := by
  unfold Obligations.SerialParseAgreesWithParse
  rintro s (hp | hp | hp)
  · rw [exec_parse_of_reading (reading_of_hdr0 hp), ← serialRun_startParse hp, serialParse, hp]
  · rw [exec_parse_of_done hp, serialParse, hp]
  · rw [exec_parse_of_error hp, serialParse, hp]

end Sys2Proof.Machine
end

section
/-! The frame_header_packer (R170 to R175): PACK and SER by their checks, the record that SER makes of the source
buffers, SER as a sequence of six operations, and the two ways back: PARSE of the unit and UNPACK of HDR. -/

namespace Sys2Proof.Machine

variable {s t : State} {c p n : Nat} {bs : List Byte}

/-! ### The checks -/

/-- The size check fails: STATUS and its flag, and nothing else (R203, R210). -/
theorem State.finish_eFieldTooLarge (s : State) :
    s.finish .eFieldTooLarge = { s with status := .eFieldTooLarge, flags := s.flags ||| 0b000100#6 } := rfl

theorem sizesFit_ne_true (h : 63 < c ∨ 1023 < p) : ¬ sizesFit c p = true := by
  rw [sizesFit_iff]
  omega

theorem exec_pack_of_too_large (h : 63 < c ∨ 1023 < p) (s : State) :
    exec (.pack c p) s = .next (s.finish .eFieldTooLarge) :=
  if_neg (sizesFit_ne_true h)

theorem exec_pack_of_sizes (hc : c ≤ 63) (hp : p ≤ 1023) (s : State) :
    exec (.pack c p) s = .next ((s.setHeader (packHeader c p)).finish .ok) :=
  if_pos ((sizesFit_iff c p).2 ⟨hc, hp⟩)

theorem exec_ser_of_too_large (h : 63 < c ∨ 1023 < p) (s : State) :
    exec (.ser c p) s = .next (s.finish .eFieldTooLarge) :=
  if_neg (sizesFit_ne_true h)

theorem exec_ser_of_no_room (hc : c ≤ 63) (hp : p ≤ 1023) (hfull : s.cfg.obufCap < 2 + c + p) :
    exec (.ser c p) s = .next (s.finish .eOverflow) :=
  (if_pos ((sizesFit_iff c p).2 ⟨hc, hp⟩)).trans (if_pos hfull)

/-- Past its checks SER builds the unit and appends it (R171). -/
theorem exec_ser_of_room (hc : c ≤ 63) (hp : p ≤ 1023) (hroom : 2 + c + p ≤ s.cfg.obufCap) :
    exec (.ser c p) s = appendUnit (2 + c + p) (buildUnit c p s) :=
  (if_pos ((sizesFit_iff c p).2 ⟨hc, hp⟩)).trans (if_neg (Nat.not_lt.2 hroom))

/-- Settles O16: by the size check. -/
theorem packChecksAndPacks : Obligations.PackChecksAndPacks := by
  unfold Obligations.PackChecksAndPacks
  intro c p s
  refine ⟨fun h => ?_, fun hc hp => ?_⟩
  · rw [exec_pack_of_too_large h, State.finish_eFieldTooLarge]
  · rw [exec_pack_of_sizes hc hp, packHeader_eq_ofNat c p hc hp, State.finish_ok]
    rfl

/-! ### The record of the source buffers -/

/-- The record that SER makes: the first `c` bytes of CFGBUF and the first `p` of PAYBUF (R171). -/
def sourceRecord (c p : Nat) (s : State) : Record :=
  ((List.range c).map (s.byteAt .cfgbuf), (List.range p).map (s.byteAt .paybuf))

theorem length_sourceRecord_wire (c p : Nat) (s : State) : (sourceRecord c p s).wire.length = 2 + c + p := by
  simp [sourceRecord]

theorem sourceRecord_wire_ne_nil (c p : Nat) (s : State) : (sourceRecord c p s).wire ≠ [] := List.cons_ne_nil _ _

theorem sourceRecord_fits (hc : c ≤ 63) (hp : p ≤ 1023) (s : State) : (sourceRecord c p s).fits := by
  simpa [Record.fits, sourceRecord] using ⟨hc, hp⟩

/-- The unit is built from address 0 as one write of the record's wire form. -/
theorem buildUnit_obuf_eq_wire (hc : c ≤ 63) (hp : p ≤ 1023) (s : State) :
    (buildUnit c p s).obuf = s.obuf.writeBytes 0 (sourceRecord c p s).wire := by
  rw [buildUnit_obuf, unit_eq_wire c p s hc hp, sourceRecord]

/-- A SER whose record the sink takes ends OK (R171). -/
theorem exec_ser_of_outAppend (hc : c ≤ 63) (hp : p ≤ 1023) (hroom : 2 + c + p ≤ s.cfg.obufCap)
    (h : outAppend (sourceRecord c p s).wire (buildUnit c p s) = some t) :
    exec (.ser c p) s = .next ((t.committed (2 + c + p)).finish .ok) := by
  rw [exec_ser_of_room hc hp hroom, appendUnit, readBytes_buildUnit c p s hc hp, ← sourceRecord, h]

/-- A SER that ends OK has put its record on OUT (R171). -/
theorem out_bytes_of_exec_ser_ok (hc : c ≤ 63) (hp : p ≤ 1023) (h : exec (.ser c p) s = .next t)
    (hok : t.status = .ok) : t.out.bytes = s.out.bytes ++ (sourceRecord c p s).wire := by
  rcases Nat.lt_or_ge s.cfg.obufCap (2 + c + p) with hfull | hroom
  · rw [exec_ser_of_no_room hc hp hfull] at h
    cases h
    cases hok
  · rw [exec_ser_of_room hc hp hroom] at h
    rcases appendUnit_cases (2 + c + p) (buildUnit c p s) with ⟨u, hu, he⟩ | ⟨-, he⟩
    · rw [he] at h
      cases h
      rw [readBytes_buildUnit c p s hc hp] at hu
      exact outAppend_bytes (s := buildUnit c p s) (t := u) hu
    · rw [he] at h
      cases h

/-- Settles O17: by the two checks; past them the record is one write to OBUF and one append to OUT. -/
theorem serAppendsOneRecord : Obligations.SerAppendsOneRecord := by
  unfold Obligations.SerAppendsOneRecord
  intro c p s
  refine ⟨fun h => ?_, fun hc hp hfull => ?_, fun hc hp hroom hsink => ?_⟩
  · rw [exec_ser_of_too_large h, State.finish_eFieldTooLarge]
  · rw [exec_ser_of_no_room hc hp hfull, State.finish_eOverflow]
  · have hlen := length_sourceRecord_wire c p s
    have hobuf := buildUnit_obuf_eq_wire hc hp s
    obtain ⟨t, ht⟩ := outAppend_of_takes (sourceRecord c p s).wire (buildUnit c p s) (by rw [hlen]; exact hsink)
    have hexec := exec_ser_of_outAppend hc hp hroom ht
    obtain ⟨hbytes, hunits, haccepts, hframe⟩ := outAppend_spec ht
    rw [if_neg (sourceRecord_wire_ne_nil c p s)] at hunits
    rw [hlen] at haccepts
    rw [hframe] at hexec
    refine ⟨_, (sourceRecord c p s).wire, hexec, rfl, hunits, hbytes, haccepts, packHeader_eq_ofNat c p hc hp, rfl, rfl,
      fun j hj => ?_, fun x hx => ?_, ?_⟩
    · simpa [hobuf] using Memory.read?_writeBytes_inside s.obuf 0 j (sourceRecord c p s).wire (hlen ▸ hj)
    · simpa [hobuf] using
        Memory.read?_writeBytes_outside s.obuf 0 x (sourceRecord c p s).wire (by rwa [hlen, Nat.zero_add])
    · simp [buildUnit, ParserKept, SourcesKept, ModelKept]

/-- Settles O19: the unit is the wire form of a record that fits, which a PARSE delivers. -/
theorem serThenParseRoundTrip : Obligations.SerThenParseRoundTrip := by
  unfold Obligations.SerThenParseRoundTrip
  intro c p s t hc hp h hok
  refine ⟨(sourceRecord c p s).wire, out_bytes_of_exec_ser_ok hc hp h hok, length_sourceRecord_wire c p s,
    fun s' rest hph hin => ?_⟩
  obtain ⟨t', ht', hok', -, -, -, hrec, -, -, -, hx, hf, hz, -, -, -, hin', -⟩ :=
    parseDeliversTheRecord s' (sourceRecord c p s) rest hph (sourceRecord_fits hc hp s) hin
  simp only [sourceRecord, List.length_map, List.length_range] at hx hf hz
  exact ⟨t', ht', hok', hx, hf, hz, hrec, congrArg InStream.bytes hin'⟩

/-! ### SER as a sequence of operations -/

theorem execAll_cons_of_next {i : Instr} (rest : List Instr) (h : exec i s = .next t) :
    execAll (i :: rest) s = execAll rest t := by
  rw [execAll, h]

theorem execAll_singleton (i : Instr) (s : State) : execAll [i] s = exec i s := by
  rw [execAll]
  cases exec i s <;> rfl

/-- The state with the cursor at `n`, after an operation that ended OK: what a sequence of writes leaves between two
of them. -/
def State.readyAt (n : Nat) (s : State) : State := (s.setCursor n).finish .ok

theorem State.readyAt_eq (n : Nat) (s : State) : s.readyAt n = { s with wcur := n, status := .ok } := by
  rw [State.readyAt, State.finish_ok]
  rfl

theorem exec_setcur_readyAt (hn : n ≤ s.cfg.obufCap) : exec (.setcur n) (s.finish .ok) = .next (s.readyAt n) := by
  have hmove : exec (.setcur n) (s.finish .ok) = .next (((s.finish .ok).setCursor n).finish .ok) :=
    if_neg (Nat.not_lt.2 hn)
  rw [hmove, State.readyAt_eq, State.finish_ok, State.finish_ok]
  rfl

/-- A write that fits moves the cursor past its bytes (R120). -/
theorem writeAtCursor_readyAt {k : Nat} (hlen : bs.length = k) (hroom : n + k ≤ s.cfg.obufCap) :
    writeAtCursor bs (s.readyAt n) = (s.storeObuf n bs).readyAt (n + k) := by
  subst hlen
  rw [State.readyAt_eq, State.readyAt_eq, writeAtCursor_fits _ _ hroom, State.finish_ok]
  rfl

theorem exec_wr16_readyAt {a : Nat} (ha : a ≤ 0xFFFF) (hroom : n + 2 ≤ s.cfg.obufCap) :
    exec (.wr16 a) (s.readyAt n) = .next ((s.storeObuf n (bytesBE 2 a)).readyAt (n + 2)) := by
  rw [exec, execWr16, if_neg (Nat.not_lt.2 ha), writeAtCursor_readyAt (length_bytesBE 2 a) hroom]

/-- A WRN in a sequence copies what the source held in `u`, if nothing has changed it since (R125). -/
theorem exec_wrn_readyAt {u : State} {sel k : Nat} {src : Buf} (h : SelectsSource sel k src)
    (hroom : n + k ≤ s.cfg.obufCap) (hmem : s.mem src = u.mem src) (hdraw : s.draw = u.draw) :
    exec (.wrn sel k) (s.readyAt n) = .next ((s.storeObuf n (u.readBytes src 0 k)).readyAt (n + k)) := by
  have hmem' : (s.readyAt n).mem src = s.mem src := by cases src <;> rfl
  have hread : (s.readyAt n).readBytes src 0 k = u.readBytes src 0 k :=
    State.readBytes_of_mem_eq _ _ _ _ _ (hmem'.trans hmem) hdraw
  rw [exec_wrn_of_selectsSource h, hread, writeAtCursor_readyAt (State.length_readBytes ..) hroom]

/-- FLUSH appends what is below the cursor, whatever the cursor and the result were before (R127). -/
theorem exec_flush_readyAt (n : Nat) (s : State) : exec .flush (s.readyAt n) = appendUnit n s := by
  have hread : (s.readyAt n).readBytes .obuf 0 n = s.readBytes .obuf 0 n :=
    State.readBytes_of_mem_eq _ _ _ _ _ rfl rfl
  have happend : outAppend (s.readBytes .obuf 0 n) (s.readyAt n) =
      (outAppend (s.readBytes .obuf 0 n) s).map fun t => (s.readyAt n).setOut t.out := outAppend_congr _ _ _ rfl
  have hflush : exec .flush (s.readyAt n) = appendUnit n (s.readyAt n) := rfl
  rw [hflush, appendUnit, appendUnit, hread, happend]
  cases h : outAppend (s.readBytes .obuf 0 n) s with
  | none => rfl
  | some t =>
    rw [outAppend_eq_setOut h, Option.map_some, State.readyAt_eq]
    simp only [State.finish_ok]
    rfl

/-- Settles O18: operation by operation, each from the state the one before it left. -/
theorem serIsItsSequence : Obligations.SerIsItsSequence := by
  unfold Obligations.SerIsItsSequence
  intro c p s hc hp hroom
  have hheader : exec (.wr16 (c * 1024 + p)) ((s.setHeader (packHeader c p)).readyAt 0) = _ :=
    exec_wr16_readyAt (by omega) (le_trans (by omega) hroom)
  have hconfig := exec_wrn_readyAt (u := s) (sel := 0) (k := c) (src := .cfgbuf) (n := 2)
    (s := (s.setHeader (packHeader c p)).storeObuf 0 (bytesBE 2 (c * 1024 + p)))
    (.inl ⟨rfl, hc, rfl⟩) (le_trans (by omega) hroom) rfl rfl
  have hpayload := exec_wrn_readyAt (u := s) (sel := 1) (k := p) (src := .paybuf) (n := 2 + c)
    (s := ((s.setHeader (packHeader c p)).storeObuf 0 (bytesBE 2 (c * 1024 + p))).storeObuf 2 (s.readBytes .cfgbuf 0 c))
    (.inr ⟨rfl, hp, rfl⟩) hroom rfl rfl
  rw [execAll_cons_of_next _ (exec_pack_of_sizes hc hp s), execAll_cons_of_next _ (exec_setcur_readyAt (Nat.zero_le _)),
    execAll_cons_of_next _ hheader, execAll_cons_of_next _ hconfig, execAll_cons_of_next _ hpayload,
    execAll_singleton, exec_flush_readyAt, exec_ser_of_room hc hp hroom, buildUnit, packHeader_toNat c p hc hp]

/-! ### PACK and UNPACK -/

theorem exec_unpack_of_bytes {b0 b1 : Nat} (h0 : b0 ≤ 0xFF) (h1 : b1 ≤ 0xFF) (s : State) :
    exec (.unpack b0 b1) s =
      .next ((s.setLengths (BitVec.ofNat 8 b0) (BitVec.ofNat 8 b1)).clearRecord.finish .ok) :=
  if_neg (by omega)

/-- UNPACK of the two bytes of a header value decodes that header (R62, R140). -/
theorem exec_unpack_of_header (h : BitVec 16) (s : State) :
    exec (.unpack (h.toNat / 256) (h.toNat % 256)) s =
      .next ((s.setLengths (headerByte0 h) (headerByte1 h)).clearRecord.finish .ok) := by
  have h0 := (headerByte0 h).isLt
  have h1 := (headerByte1 h).isLt
  rw [← headerByte0_toNat, ← headerByte1_toNat,
    exec_unpack_of_bytes (Nat.le_of_lt_succ h0) (Nat.le_of_lt_succ h1), BitVec.ofNat_toNat, BitVec.ofNat_toNat,
    BitVec.setWidth_eq, BitVec.setWidth_eq]

/-- PACK of the two sizes that two header bytes give passes its check and puts those bytes in HDR (R93, R170). -/
theorem exec_pack_of_extractedSizes (v0 v1 : Byte) (s : State) :
    exec (.pack (extradataSize v0).toNat (framedataSize v0 v1).toNat) s =
      .next ((s.setHeader (headerOfBytes v0 v1)).finish .ok) := by
  rw [exec_pack_of_sizes (Nat.le_of_lt_succ (BitVec.isLt _)) (Nat.le_of_lt_succ (BitVec.isLt _)),
    packHeader_extractedSizes]

/-- Settles O20: each direction from the header arithmetic of the other operation. -/
theorem packAndUnpackAreInverse : Obligations.PackAndUnpackAreInverse := by
  unfold Obligations.PackAndUnpackAreInverse
  refine ⟨fun c p s hc hp => ?_, fun b0 b1 s h0 h1 => ?_⟩
  · have hx := extradataSize_packHeader_toNat hc hp
    have hf := framedataSize_packHeader_toNat hc hp
    exact ⟨_, _, exec_pack_of_sizes hc hp s, exec_unpack_of_header _ _, rfl, hx, hf,
      (packetSize_toNat _ _).trans (congrArg₂ (· + ·) hx hf)⟩
  · have hval : (headerOfBytes (BitVec.ofNat 8 b0) (BitVec.ofNat 8 b1)).toNat = b0 * 256 + b1 := by
      rw [headerOfBytes_toNat, BitVec.toNat_ofNat, BitVec.toNat_ofNat]
      omega
    exact ⟨_, _, exec_unpack_of_bytes h0 h1 s, exec_pack_of_extractedSizes _ _ _, rfl, hval⟩

end Sys2Proof.Machine
end

section
/-! The system operations (R190, R191): RESET as the transition of the block's reset, and the four codes that name no
operation as one refusal. -/

namespace Sys2Proof.Machine

/-! ### RESET -/

/-- Ending OK adds nothing to a reset: STATUS is OK already (R43, R190). -/
theorem State.resetBlock_finish_ok (s : State) : s.resetBlock.finish .ok = s.resetBlock :=
  State.finish_ok s.resetBlock

theorem exec_reset (s : State) : exec .reset s = .next s.resetBlock :=
  congrArg Host.Outcome.next s.resetBlock_finish_ok

/-- No byte of any buffer of a block just reset is written (R44, R190). -/
theorem State.read?_resetBlock_mem (s : State) (b : Buf) (a : Nat) : (s.resetBlock.mem b).read? a = none := by
  cases b <;> rfl

/-- Settles O35: the next state is the reset block; its registers are its field lemmas. -/
theorem resetReturnsToTheResetState : Obligations.ResetReturnsToTheResetState := by
  unfold Obligations.ResetReturnsToTheResetState
  intro s
  refine ⟨s.resetBlock, exec_reset s, ?_⟩
  simp [State.read?_resetBlock_mem]

/-! ### The codes that name no operation -/

/-- The instructions of the four codes that name no operation (R191). -/
def illegalInstrs : List Instr := [.illegal0, .illegalC, .illegalD, .illegalE]

/-- The code names no operation: STATUS and its flag, and nothing else (R191, R206). -/
theorem State.finish_eIllegal (s : State) :
    s.finish .eIllegal = { s with status := .eIllegal, flags := s.flags ||| 0b100000#6 } := rfl

theorem exec_of_mem_illegalInstrs {i : Instr} (h : i ∈ illegalInstrs) (s : State) :
    exec i s = .next { s with status := .eIllegal, flags := s.flags ||| 0b100000#6 } := by
  simp only [illegalInstrs, List.mem_cons, List.not_mem_nil, or_false] at h
  rw [← State.finish_eIllegal]
  rcases h with rfl | rfl | rfl | rfl <;> rfl

/-- A command word is illegal by its `op` field alone, whatever its operands (R101, R102). -/
theorem decodeCommand_mem_illegalInstrs {w : CommandWord} (h : opField w ∈ [0x0#4, 0xC#4, 0xD#4, 0xE#4]) :
    decodeCommand w ∈ illegalInstrs := by
  simp only [List.mem_cons, List.not_mem_nil, or_false] at h
  rcases h with h | h | h | h <;> simp [decodeCommand, h, illegalInstrs]

/-- Settles O38: the four meanings are one refusal, and an illegal word decodes to one of the four. -/
theorem illegalCodesChangeNothingElse : Obligations.IllegalCodesChangeNothingElse := by
  unfold Obligations.IllegalCodesChangeNothingElse
  refine ⟨fun s => ?_, fun s rest w h => ?_⟩
  · exact ⟨exec_of_mem_illegalInstrs (by decide) s, exec_of_mem_illegalInstrs (by decide) s,
      exec_of_mem_illegalInstrs (by decide) s, exec_of_mem_illegalInstrs (by decide) s⟩
  · rw [step_of_command (w := w) (rest := rest) rfl, exec_of_mem_illegalInstrs (decodeCommand_mem_illegalInstrs h)]
    rfl

end Sys2Proof.Machine
end

section
/-! The results of the operations (R200 to R210): which ones an operation can have, which cause decides, and what each
result leaves unchanged. -/

namespace Sys2Proof.Machine

variable {s t : State} {i : Instr} {r : Status}

/-! ### Which results an operation can have -/

/-- A write operation can end OK (R207). -/
theorem ok_mem_possibleResults_of_bytesWritten {bs : List Byte} (h : bytesWritten s i = some bs) :
    .ok ∈ possibleResults i := by
  cases i with
  | wr8 | wr16 | wr24 | wr32 | wrn => exact List.mem_cons_self
  | _ => cases h

/-- A PARSE and the header it takes have the same three results (R207). -/
theorem possibleResults_of_parse_or_header (h : i = .parse ∨ ∃ c p, i = .recordHeader c p) :
    possibleResults i = [.ok, .eos, .eTruncated] := by
  rcases h with rfl | ⟨c, p, rfl⟩ <;> rfl

/-- What receives a record is a PARSE that reads the header, or the header itself (R141). -/
theorem parse_or_header_of_source {P Q : Prop} {b0 b1 : Byte}
    (h : i = .parse ∧ P ∨
      (∃ c p, i = .recordHeader c p ∧ b0 = headerByte0 (headerWord c p) ∧ b1 = headerByte1 (headerWord c p)) ∧ Q) :
    i = .parse ∨ ∃ c p, i = .recordHeader c p :=
  h.imp (fun ⟨hi, _⟩ => hi) fun ⟨⟨c, p, hi, _⟩, _⟩ => ⟨c, p, hi⟩

/-- The result of an operation is in its row of the table (R207). -/
theorem Effect.status_mem (h : Effect s i t) : t.status ∈ possibleResults i := by
  cases h with
  | refused _ _ _ hmem => exact hmem
  | wrote _ _ hb => exact ok_mem_possibleResults_of_bytesWritten hb
  | cursor | flushed | packed | serialised | unpacked | reset => exact List.mem_cons_self
  | ended | endedStray => simp [possibleResults]
  | stillDone _ hi | stillError _ hi => simp [possibleResults_of_parse_or_header hi]
  | received _ _ _ _ _ hi | truncated _ _ _ _ hi =>
    simp [possibleResults_of_parse_or_header (parse_or_header_of_source hi)]

/-- Settles O39: by the ways an instruction can end. -/
theorem resultsEachOperationCanEndWith : Obligations.ResultsEachOperationCanEndWith := by
  unfold Obligations.ResultsEachOperationCanEndWith
  intro i s t h
  exact (exec_effect h).status_mem

/-! ### Which cause decides -/

/-- The code or an operand alone gives one of three results; E_OVERFLOW and the stream results need the state (R209). -/
theorem operandResult_cases (h : operandResult i = some r) : r = .eFieldTooLarge ∨ r = .eValueRange ∨ r = .eIllegal := by
  cases i with
  | wr8 | wr16 | wr24 | wrn | unpack =>
    obtain ⟨-, ⟨⟩⟩ := Option.ite_none_right_eq_some.1 h
    exact .inr (.inl rfl)
  | pack | ser =>
    obtain ⟨-, ⟨⟩⟩ := Option.ite_none_right_eq_some.1 h
    exact .inl rfl
  | illegal0 | illegalC | illegalD | illegalE =>
    obtain rfl := Option.some.inj h
    exact .inr (.inr rfl)
  | _ => cases h

/-- What the code or an operand decides is the result in every state, before anything else is looked at (R209). -/
theorem exec_of_operandResult (h : operandResult i = some r) (s : State) : exec i s = .next (s.finish r) := by
  cases i with
  | wr8 | wr16 | wr24 | unpack =>
    obtain ⟨hbig, ⟨⟩⟩ := Option.ite_none_right_eq_some.1 h
    exact if_pos hbig
  | wrn =>
    obtain ⟨hrange, ⟨⟩⟩ := Option.ite_none_right_eq_some.1 h
    exact exec_wrn_of_out_of_range hrange s
  | pack =>
    obtain ⟨hbig, ⟨⟩⟩ := Option.ite_none_right_eq_some.1 h
    exact exec_pack_of_too_large hbig s
  | ser =>
    obtain ⟨hbig, ⟨⟩⟩ := Option.ite_none_right_eq_some.1 h
    exact exec_ser_of_too_large hbig s
  | illegal0 | illegalC | illegalD | illegalE =>
    obtain rfl := Option.some.inj h
    rfl
  | _ => cases h

/-- Settles O40: the operand check comes first and leaves the state, PARSE checks its phase before it reads, and no
operand check gives E_OVERFLOW. -/
theorem priorityOfResults : Obligations.PriorityOfResults := by
  unfold Obligations.PriorityOfResults
  refine ⟨fun i s r h => ?_, fun s hph => ⟨_, exec_parse_of_done hph, rfl, rfl⟩,
    fun s hph => ⟨_, exec_parse_of_error hph, rfl, rfl⟩, fun i s t h hover => ?_⟩
  · have hph : r.phaseAfter s.ph = s.ph := by rcases operandResult_cases h with rfl | rfl | rfl <;> rfl
    refine ⟨_, exec_of_operandResult h s, rfl, ?_, ?_, rfl, rfl⟩
    · simp [WriterKept]
    · simp [ParserKept, hph]
  · by_contra hsome
    obtain ⟨r, hr⟩ := Option.ne_none_iff_exists'.1 hsome
    obtain rfl := Host.Outcome.next.inj ((exec_of_operandResult hr s).symm.trans h)
    obtain rfl : r = .eOverflow := hover
    simpa using operandResult_cases hr

/-! ### What each result leaves unchanged -/

/-- Every operation ends with the end that reports its result (R200). -/
theorem Effect.exists_finish (h : Effect s i t) : ∃ u : State, t = u.finish t.status := by
  cases h <;> exact ⟨_, rfl⟩

/-- A result that is neither OK nor a stream result is all that the operation leaves behind (R210). -/
theorem Effect.eq_finish_of_refused (h : Effect s i t) (hs : t.status = r)
    (hr : r = .eFieldTooLarge ∨ r = .eOverflow ∨ r = .eValueRange ∨ r = .eIllegal) : t = s.finish r := by
  subst hs
  cases h with
  | refused => rfl
  | _ => simp at hr

/-- The parser's operations write nothing at the cursor (R120). -/
theorem bytesWritten_of_parserSide (hi : parserSide i = true) : bytesWritten s i = none := by
  cases i with
  | unpack | parse | recordHeader => rfl
  | _ => cases hi

/-- The parser's operations leave everything but the parser, IN, STATUS and FLAGS (R211). -/
theorem Effect.restKept (h : Effect s i t) (hi : parserSide i = true) : RestKept s t := by
  cases h with
  | wrote _ _ hb => cases (bytesWritten_of_parserSide hi).symm.trans hb
  | cursor | flushed | packed | serialised | reset => cases hi
  | _ => simp [RestKept, WriterKept, SourcesKept, ModelKept, withHeaderBytes]

/-- Only the parser's operations have a stream result (R207). -/
theorem parserSide_of_stream_result (h : .eos ∈ possibleResults i ∨ .eTruncated ∈ possibleResults i) :
    parserSide i = true := by
  cases i with
  | unpack | parse | recordHeader => rfl
  | _ => simp [possibleResults] at h

/-- A stream result changes nothing but the parser, IN, STATUS and FLAGS (R210). -/
theorem Effect.restKept_of_stream (h : Effect s i t) (hs : t.status = .eos ∨ t.status = .eTruncated) :
    RestKept s t := by
  have hmem := h.status_mem
  exact h.restKept (parserSide_of_stream_result (hs.imp (fun e => by rwa [e] at hmem) fun e => by rwa [e] at hmem))

/-- A PARSE that finds the end before a whole header has stored nothing in RXBUF (R143, R145). -/
theorem Effect.rxbuf_of_eos (h : Effect s i t) (hs : t.status = .eos) : t.rxbuf = s.rxbuf := by
  cases h with
  | refused | stillDone | ended | endedStray => rfl
  | _ => cases hs

/-- A result other than OK adds its flag (R35, R210). -/
theorem Effect.flags_of_not_ok (h : Effect s i t) (hs : t.status = r) (hr : r ≠ .ok) :
    t.flags = s.flags ||| r.flagMask := by
  subst hs
  rcases h.flags with ⟨-, -, hok⟩ | ⟨-, hflags⟩
  · exact absurd hok hr
  · exact hflags

/-- A stream result puts the parser in its phase (R210). -/
theorem Effect.ph_of_status (h : Effect s i t) (hs : t.status = r) : ∃ p, t.ph = r.phaseAfter p := by
  subst hs
  obtain ⟨u, hu⟩ := h.exists_finish
  exact ⟨u.ph, congrArg (fun v : State => v.ph) hu⟩

/-- Settles O41: the four refusals are the end of the operation alone; the stream results are the parser's. -/
theorem refusedOperationsArePrecise : Obligations.RefusedOperationsArePrecise := by
  unfold Obligations.RefusedOperationsArePrecise
  intro i s t h
  have he := exec_effect h
  refine ⟨fun hs => he.eq_finish_of_refused hs (by simp), fun hs => he.eq_finish_of_refused hs (by simp),
    fun hs => he.eq_finish_of_refused hs (by simp), fun hs => he.eq_finish_of_refused hs (by simp),
    fun hs => ?_, fun hs => ?_⟩
  · obtain ⟨hwriter, hsources, hout, hmodel⟩ := he.restKept_of_stream (.inl hs)
    obtain ⟨_, hph⟩ := he.ph_of_status hs
    exact ⟨hph, he.flags_of_not_ok hs (by simp), hwriter, hsources, hout, he.rxbuf_of_eos hs, hmodel⟩
  · obtain ⟨hwriter, hsources, hout, hmodel⟩ := he.restKept_of_stream (.inr hs)
    obtain ⟨_, hph⟩ := he.ph_of_status hs
    exact ⟨hph, he.flags_of_not_ok hs (by simp), hwriter, hsources, hout, hmodel⟩

end Sys2Proof.Machine
end

section
/-! Which operations end (R221, R255): an operation answers a next state unless its stream stalls, and FLUSH and SER stall
exactly where the sink takes too few bytes. -/

namespace Sys2Proof.Machine

variable {s : State} {i : Instr} {n : Nat}

/-- An operation that is not stuck ends. -/
theorem exec_ends_of_not_fault (h : ∀ r, exec i s ≠ .fault r) : ∃ t, exec i s = .next t := by
  cases he : exec i s with
  | next t => exact ⟨t, rfl⟩
  | fault r => exact absurd he (h r)
  | refused r => exact absurd he (exec_not_refused i s r)

/-- Only a stalled sink stops FLUSH or SER (R221). -/
theorem fault_eq_outputStalled_of_writerSide {r : Fault} (hi : writerSide i = true) (h : exec i s = .fault r) :
    r = .outputStalled := by
  rcases exec_fault h with ⟨-, rfl | ⟨c, p, rfl⟩, -⟩ | ⟨hr, -⟩
  · cases hi
  · cases hi
  · exact hr

/-- A PARSE or a header ends when IN does (R221, R255). -/
theorem exec_ends_of_input_ends (hi : i = .parse ∨ ∃ c p, i = .recordHeader c p) (he : s.inp.ending = .eos) :
    ∃ t, exec i s = .next t := by
  refine exec_ends_of_not_fault fun r h => ?_
  rcases exec_fault h with ⟨-, -, hnever, -⟩ | ⟨-, ⟨rfl, -⟩ | ⟨c, p, rfl, -⟩⟩
  · rw [he] at hnever
    cases hnever
  · simp at hi
  · simp at hi

/-- An append of `n` bytes of OBUF never ends exactly where the sink takes fewer (R70, R221). -/
theorem appendUnit_eq_fault_iff :
    appendUnit n s = .fault .outputStalled ↔ ∃ k, s.out.accepts = some k ∧ k < n := by
  have hnone := outAppend_eq_none_iff (s.readBytes .obuf 0 n) s
  rw [State.length_readBytes] at hnone
  rw [← hnone]
  rcases appendUnit_cases n s with ⟨t, ht, he⟩ | ⟨hn, he⟩
  · simp [ht, he]
  · simp [hn, he]

theorem exec_flush_eq_fault_iff :
    exec .flush s = .fault .outputStalled ↔ ∃ k, s.out.accepts = some k ∧ k < s.wcur :=
  appendUnit_eq_fault_iff

/-- SER stalls on its append only, so its checks have passed (R171, R221). -/
theorem exec_ser_eq_fault_iff {c p : Nat} :
    exec (.ser c p) s = .fault .outputStalled ↔
      c ≤ 63 ∧ p ≤ 1023 ∧ 2 + c + p ≤ s.cfg.obufCap ∧ ∃ k, s.out.accepts = some k ∧ k < 2 + c + p := by
  by_cases hbig : 63 < c ∨ 1023 < p
  · rw [exec_ser_of_too_large hbig]
    simp only [reduceCtorEq, false_iff]
    omega
  obtain ⟨hc, hp⟩ : c ≤ 63 ∧ p ≤ 1023 := by omega
  rcases Nat.lt_or_ge s.cfg.obufCap (2 + c + p) with hfull | hroom
  · rw [exec_ser_of_no_room hc hp hfull]
    simp only [reduceCtorEq, false_iff]
    omega
  · rw [exec_ser_of_room hc hp hroom, appendUnit_eq_fault_iff]
    exact ⟨fun hsink => ⟨hc, hp, hroom, hsink⟩, fun ⟨_, _, _, hsink⟩ => hsink⟩

/-- Settles O49: by the ways an instruction can be stuck, and the exact stall of an append. -/
theorem operationsEndUnlessAStreamStalls : Obligations.OperationsEndUnlessAStreamStalls := by
  unfold Obligations.OperationsEndUnlessAStreamStalls
  refine ⟨fun i s hparse hheader hflush hser => exec_ends_of_not_fault fun r h => ?_,
    fun s he => exec_ends_of_input_ends (.inl rfl) he, fun c p s he => exec_ends_of_input_ends (.inr ⟨c, p, rfl⟩) he,
    fun s => exec_flush_eq_fault_iff, fun s hsink => exec_ends_of_not_fault fun r h => ?_,
    fun c p s => exec_ser_eq_fault_iff, fun c p s hsink => exec_ends_of_not_fault fun r h => ?_⟩
  · rcases exec_fault h with ⟨-, hi | ⟨c, p, hi⟩, -⟩ | ⟨-, ⟨hi, -⟩ | ⟨c, p, hi, -⟩⟩
    · exact hparse hi
    · exact hheader c p hi
    · exact hflush hi
    · exact hser c p hi
  · obtain rfl := fault_eq_outputStalled_of_writerSide rfl h
    obtain ⟨k, hk, -⟩ := exec_flush_eq_fault_iff.1 h
    cases hsink.symm.trans hk
  · obtain rfl := fault_eq_outputStalled_of_writerSide rfl h
    obtain ⟨-, -, -, k, hk, -⟩ := exec_ser_eq_fault_iff.1 h
    cases hsink.symm.trans hk

end Sys2Proof.Machine
end

section
/-! The two sides of the block (R1, R211): an operation leaves the other side as it was, and two states with the same side
give it the same outcome on that side. -/

namespace Sys2Proof.Machine

variable {s s' x t : State} {i : Instr} {n : Nat}

/-! ### The other side is left alone -/

/-- The writer's operations leave the parser and IN (R211). -/
theorem Effect.sameParserSide (h : Effect s i t) (hi : writerSide i = true) : SameParserSide s t := by
  cases h with
  | refused _ r hr => rcases hr with rfl | rfl | rfl | rfl <;> simp [SameParserSide, ParserKept]
  | wrote | cursor | packed => simp [SameParserSide, ParserKept]
  | flushed u hu => rw [outAppend_eq_setOut hu]; simp [SameParserSide, ParserKept]
  | serialised c p u _ _ _ hu => rw [outAppend_eq_setOut hu]; simp [SameParserSide, ParserKept, buildUnit]
  | stillDone _ hp | stillError _ hp => rcases hp with rfl | ⟨c, p, rfl⟩ <;> cases hi
  | received _ _ _ _ _ hp | truncated _ _ _ _ hp =>
    rcases parse_or_header_of_source hp with rfl | ⟨c, p, rfl⟩ <;> cases hi
  | unpacked | ended | endedStray | reset => cases hi

/-- All but the parser's side covers the writer's side. -/
theorem RestKept.sameWriterSide (h : RestKept s t) : SameWriterSide s t := by
  obtain ⟨hwriter, hsources, hout, hcfg, hdraw, -⟩ := h
  exact ⟨hwriter, hsources, hout, hcfg, hdraw⟩

/-! ### One side of a state put into another state -/

/-- `x` with the writer's side of `s`. -/
def State.withWriterSideOf (x s : State) : State :=
  { x with
    wcur := s.wcur
    obuf := s.obuf
    hdr := s.hdr
    wlen := s.wlen
    cfgbuf := s.cfgbuf
    paybuf := s.paybuf
    out := s.out
    cfg := s.cfg
    draw := s.draw }

/-- `x` with the parser's side of `s`. -/
def State.withParserSideOf (x s : State) : State :=
  { x with
    ph := s.ph
    b0 := s.b0
    b1 := s.b1
    hgot := s.hgot
    xsz := s.xsz
    fsz := s.fsz
    psz := s.psz
    got := s.got
    recv := s.recv
    rxbuf := s.rxbuf
    inp := s.inp }

theorem SameWriterSide.eq_withWriterSideOf (h : SameWriterSide s s') : s' = s'.withWriterSideOf s := by
  obtain ⟨⟨hwcur, hobuf, hhdr, hwlen⟩, ⟨hcfgbuf, hpaybuf⟩, hout, hcfg, hdraw⟩ := h
  rw [State.withWriterSideOf, ← hwcur, ← hobuf, ← hhdr, ← hwlen, ← hcfgbuf, ← hpaybuf, ← hout, ← hcfg, ← hdraw]

theorem SameParserSide.eq_withParserSideOf (h : SameParserSide s s') : s' = s'.withParserSideOf s := by
  obtain ⟨⟨hph, hb0, hb1, hhgot, hxsz, hfsz, hpsz, hgot, hrecv, hrxbuf⟩, hinp⟩ := h
  rw [State.withParserSideOf, ← hph, ← hb0, ← hb1, ← hhgot, ← hxsz, ← hfsz, ← hpsz, ← hgot, ← hrecv, ← hrxbuf, ← hinp]

/-! ### The writer's operations depend on the writer's side -/

/-- The writer's side and the result of two operations are the same. -/
def SameWriterResult (t t' : State) : Prop := SameWriterSide t t' ∧ t'.status = t.status

theorem sameWriterResult_finish (x s : State) (r : Status) :
    SameWriterResult (s.finish r) ((x.withWriterSideOf s).finish r) :=
  ⟨⟨⟨rfl, rfl, rfl, rfl⟩, ⟨rfl, rfl⟩, rfl, rfl, rfl⟩, rfl⟩

/-- Every buffer but RXBUF, and the draw, is of the writer's side. -/
theorem State.readBytes_withWriterSideOf {b : Buf} (hb : b ≠ .rxbuf) (x s : State) (a n : Nat) :
    (x.withWriterSideOf s).readBytes b a n = s.readBytes b a n := by
  refine State.readBytes_of_mem_eq _ _ b a n ?_ rfl
  cases b with
  | rxbuf => exact absurd rfl hb
  | _ => rfl

theorem sameWriterResult_writeAtCursor (bs : List Byte) (x s : State) :
    SameWriterResult (writeAtCursor bs s) (writeAtCursor bs (x.withWriterSideOf s)) := by
  by_cases ho : s.cfg.obufCap < s.wcur + bs.length
  · rw [writeAtCursor_overflow bs s ho, writeAtCursor_overflow bs (x.withWriterSideOf s) ho]
    exact sameWriterResult_finish x s _
  · have hf := Nat.not_lt.1 ho
    rw [writeAtCursor_fits bs s hf, writeAtCursor_fits bs (x.withWriterSideOf s) hf]
    exact sameWriterResult_finish x ((s.storeObuf s.wcur bs).setCursor (s.wcur + bs.length)) _

theorem sameOutcome_appendUnit (n : Nat) (x s : State) :
    SameOutcome SameWriterResult (appendUnit n s) (appendUnit n (x.withWriterSideOf s)) := by
  rw [appendUnit, appendUnit, State.readBytes_withWriterSideOf (by decide),
    outAppend_congr _ s (x.withWriterSideOf s) rfl]
  cases hu : outAppend (s.readBytes .obuf 0 n) s with
  | none => exact .fault _
  | some u =>
    rw [outAppend_eq_setOut hu]
    exact .next (sameWriterResult_finish x ((s.setOut u.out).committed n) _)

/-- The unit SER builds comes from the writer's side (R171). -/
theorem buildUnit_withWriterSideOf (c p : Nat) (x s : State) :
    buildUnit c p (x.withWriterSideOf s) = x.withWriterSideOf (buildUnit c p s) := by
  rw [buildUnit, State.readBytes_withWriterSideOf (by decide), State.readBytes_withWriterSideOf (by decide)]
  rfl

/-- A writer operation has the same outcome, stalls included, whatever the parser's side holds (R211). -/
theorem sameOutcome_exec_of_writerSide (hi : writerSide i = true) (x s : State) :
    SameOutcome SameWriterResult (exec i s) (exec i (x.withWriterSideOf s)) := by
  have finished (r : Status) :
      SameOutcome SameWriterResult (.next (s.finish r)) (.next ((x.withWriterSideOf s).finish r)) :=
    .next (sameWriterResult_finish x s r)
  have written (bs : List Byte) :
      SameOutcome SameWriterResult (.next (writeAtCursor bs s)) (.next (writeAtCursor bs (x.withWriterSideOf s))) :=
    .next (sameWriterResult_writeAtCursor bs x s)
  cases i with
  | wr8 a | wr16 a | wr24 a => exact .ite Iff.rfl (finished _) (written _)
  | wr32 a => exact written _
  | wrn sel n =>
    rw [exec, exec, execWrn, execWrn]
    cases sourceOf sel with
    | none => exact finished _
    | some src =>
      have hread := State.readBytes_withWriterSideOf (b := src.buf) (by cases src <;> decide) x s 0 n
      simp only [hread]
      exact .ite Iff.rfl (finished _) (written _)
  | setcur p => exact .ite Iff.rfl (finished _) (.next (sameWriterResult_finish x (s.setCursor p) _))
  | flush => exact sameOutcome_appendUnit s.wcur x s
  | pack c p => exact .ite Iff.rfl (.next (sameWriterResult_finish x (s.setHeader (packHeader c p)) _)) (finished _)
  | ser c p =>
    rw [exec, exec, execSer, execSer, buildUnit_withWriterSideOf]
    exact .ite Iff.rfl (.ite Iff.rfl (finished _) (sameOutcome_appendUnit _ x _)) (finished _)
  | _ => cases hi

/-! ### The parser's operations depend on the parser's side -/

/-- The parser's side and the result of two operations are the same. -/
def SameParserResult (t t' : State) : Prop := SameParserSide t t' ∧ t'.status = t.status

theorem sameParserResult_finish (x s : State) (r : Status) :
    SameParserResult (s.finish r) ((x.withParserSideOf s).finish r) :=
  ⟨⟨⟨rfl, rfl, rfl, rfl, rfl, rfl, rfl, rfl, rfl, rfl⟩, rfl⟩, rfl⟩

/-- `InRead(n)` reads and changes the parser's side only (R68). -/
theorem inRead_withParserSideOf (n : Nat) (x s : State) :
    inRead n (x.withParserSideOf s) = (inRead n s).map fun p => (p.1, x.withParserSideOf p.2) := by
  rw [inRead_congr n (s := s) (s' := x.withParserSideOf s) rfl]
  cases h : inRead n s with
  | none => rfl
  | some p =>
    rw [Option.map_some, Option.map_some, inRead_eq_setIn h]
    rfl

theorem sameOutcome_receivePacket (x s : State) :
    SameOutcome SameParserResult (receivePacket s) (receivePacket (x.withParserSideOf s)) := by
  have hread : inRead (x.withParserSideOf s).psz.toNat (x.withParserSideOf s) = _ :=
    inRead_withParserSideOf s.psz.toNat x s
  rw [receivePacket, receivePacket, hread]
  cases inRead s.psz.toNat s with
  | none => exact .fault _
  | some p =>
    exact .ite Iff.rfl (.next (sameParserResult_finish x (p.2.storePacket p.1) _))
      (.next (sameParserResult_finish x (p.2.storePacket p.1).deliver _))

theorem sameOutcome_receiveRecord (b0 b1 : Byte) (x s : State) :
    SameOutcome SameParserResult (receiveRecord b0 b1 s) (receiveRecord b0 b1 (x.withParserSideOf s)) :=
  sameOutcome_receivePacket x ((s.takeByte0 b0).takeByte1 b1)

theorem sameOutcome_parseRecord (x s : State) :
    SameOutcome SameParserResult (parseRecord s) (parseRecord (x.withParserSideOf s)) := by
  have hread : inRead 2 (x.withParserSideOf s).startParse = _ := inRead_withParserSideOf 2 x s.startParse
  rw [parseRecord, parseRecord, hread]
  cases inRead 2 s.startParse with
  | none => exact .fault _
  | some p =>
    match p with
    | ([], s1) => exact .next (sameParserResult_finish x s1 _)
    | ([v], s1) => exact .next (sameParserResult_finish x (s1.takeByte0 v) _)
    | (v0 :: v1 :: _, s1) => exact sameOutcome_receiveRecord v0 v1 x s1

/-- A parser operation has the same outcome, stalls included, whatever the writer's side holds (R211). -/
theorem sameOutcome_exec_of_parserSide (hi : parserSide i = true) (x s : State) :
    SameOutcome SameParserResult (exec i s) (exec i (x.withParserSideOf s)) := by
  have finished (r : Status) :
      SameOutcome SameParserResult (.next (s.finish r)) (.next ((x.withParserSideOf s).finish r)) :=
    .next (sameParserResult_finish x s r)
  have hph : (x.withParserSideOf s).ph = s.ph := rfl
  cases i with
  | unpack v0 v1 =>
    exact .ite Iff.rfl (finished _) (.next (sameParserResult_finish x (s.setLengths _ _).clearRecord _))
  | parse =>
    rw [exec, exec, execParse, execParse, hph]
    cases s.ph with
    | done | error => exact finished _
    | hdr0 | hdr1 | body => exact sameOutcome_parseRecord x s
  | recordHeader c p =>
    rw [exec, exec, execRecordHeader, execRecordHeader, hph]
    cases s.ph with
    | done | error => exact finished _
    | hdr0 | hdr1 | body => exact sameOutcome_receiveRecord _ _ x s.startParse
  | _ => cases hi

/-! ### The two sides -/

theorem SameWriterSide.exec (h : SameWriterSide s s') (hi : writerSide i = true) :
    SameOutcome SameWriterResult (Machine.exec i s) (Machine.exec i s') := by
  rw [h.eq_withWriterSideOf]
  exact sameOutcome_exec_of_writerSide hi s' s

theorem SameParserSide.exec (h : SameParserSide s s') (hi : parserSide i = true) :
    SameOutcome SameParserResult (Machine.exec i s) (Machine.exec i s') := by
  rw [h.eq_withParserSideOf]
  exact sameOutcome_exec_of_parserSide hi s' s

/-- Settles O43: each side's operations leave the other side, and have the same outcome on the same side. -/
theorem twoSidesShareOnlyTheResult : Obligations.TwoSidesShareOnlyTheResult := by
  unfold Obligations.TwoSidesShareOnlyTheResult
  exact ⟨fun i s t hi h => (exec_effect h).sameParserSide hi,
    fun i s t hi h => ((exec_effect h).restKept hi).sameWriterSide,
    fun i s s' t hi hs h => (hs.exec hi).exists_next h, fun i s s' t hi hs h => (hs.exec hi).exists_next h,
    fun i s s' r hi hs h => (hs.exec hi).eq_fault h, fun i s s' r hi hs h => (hs.exec hi).eq_fault h⟩

end Sys2Proof.Machine
end

section
/-! Reset and hazards (R240 to R255): what SER owes to OBUF and to the cursor, hardware reset beside RESET, the state after
reset, an attached stream, and the buffer read port. -/

namespace Sys2Proof.Machine

variable {s t : State} {c p : Nat}

/-! ### SER and what OBUF held -/

/-- A SER that ends OK has passed its checks and has put its record on OUT (R171). -/
theorem outAppend_of_exec_ser_ok (h : exec (.ser c p) s = .next t) (hok : t.status = .ok) :
    c ≤ 63 ∧ p ≤ 1023 ∧ 2 + c + p ≤ s.cfg.obufCap ∧
      ∃ u, outAppend (sourceRecord c p s).wire (buildUnit c p s) = some u ∧
        t = (u.committed (2 + c + p)).finish .ok := by
  cases exec_effect h with
  | refused _ r hr => rcases hr with rfl | rfl | rfl | rfl <;> cases hok
  | serialised _ _ u hc hp hroom hu =>
    rw [readBytes_buildUnit c p s hc hp] at hu
    exact ⟨hc, hp, hroom, u, hu, rfl⟩
  | wrote _ _ hb => cases hb
  | stillDone _ hi | stillError _ hi => rcases hi with hi | ⟨_, _, hi⟩ <;> cases hi
  | received _ _ _ _ _ hi | truncated _ _ _ _ hi =>
    rcases parse_or_header_of_source hi with hi | ⟨_, _, hi⟩ <;> cases hi

/-- The state with other contents of OBUF and another cursor: what writes that were never flushed leave behind (R251). -/
def State.withUnflushed (m : Memory) (n : Nat) (s : State) : State := { s with obuf := m, wcur := n }

/-- SER takes its record from the source buffers, which writes to OBUF leave alone. -/
theorem sourceRecord_withUnflushed (c p : Nat) (m : Memory) (n : Nat) (s : State) :
    sourceRecord c p (s.withUnflushed m n) = sourceRecord c p s := rfl

/-- The sink takes the record of a SER or not, whatever OBUF and the cursor were. -/
theorem outAppend_buildUnit_withUnflushed (u : List Byte) (c p : Nat) (m : Memory) (n : Nat) (s : State) :
    outAppend u (buildUnit c p (s.withUnflushed m n)) =
      (outAppend u (buildUnit c p s)).map fun t => (buildUnit c p (s.withUnflushed m n)).setOut t.out :=
  outAppend_congr u _ _ rfl

/-- The bytes of the unit that SER builds are the record's, whatever OBUF held. -/
theorem read?_buildUnit (hc : c ≤ 63) (hp : p ≤ 1023) (s : State) {j : Nat} (hj : j < 2 + c + p) :
    (buildUnit c p s).obuf.read? j = (sourceRecord c p s).wire[j]? := by
  have hj' : j < (sourceRecord c p s).wire.length := by rwa [length_sourceRecord_wire]
  simpa [buildUnit_obuf_eq_wire hc hp] using Memory.read?_writeBytes_inside s.obuf 0 j _ hj'

/-- Settles O21: the unit is the record of the source buffers, and the sink's answer depends on that record alone. -/
theorem serIgnoresUnflushedWrites : Obligations.SerIgnoresUnflushedWrites := by
  unfold Obligations.SerIgnoresUnflushedWrites
  intro c p n m s t h hok
  obtain ⟨hc, hp, hroom, u, hu, rfl⟩ := outAppend_of_exec_ser_ok h hok
  have hu' := outAppend_buildUnit_withUnflushed (sourceRecord c p s).wire c p m n s
  rw [hu, Option.map_some, ← sourceRecord_withUnflushed c p m n s] at hu'
  refine ⟨_, exec_ser_of_outAppend hc hp hroom hu', ?_⟩
  rw [outAppend_eq_setOut hu]
  refine ⟨rfl, rfl, rfl, rfl, rfl, rfl, fun j hj => ?_⟩
  calc (buildUnit c p (s.withUnflushed m n)).obuf.read? j
    _ = (sourceRecord c p (s.withUnflushed m n)).wire[j]? := read?_buildUnit hc hp _ hj
    _ = (sourceRecord c p s).wire[j]? := by rw [sourceRecord_withUnflushed]
    _ = (buildUnit c p s).obuf.read? j := (read?_buildUnit hc hp s hj).symm

/-! ### Reset -/

/-- The step of a hardware reset (R242). -/
theorem step_of_hardReset {rest : List HostMove} (h : s.host = .hardReset :: rest) :
    step s = .next (s.setHost rest).resetBlock := by
  simp [step, h, performMove]

/-- Settles O36: the word decodes to RESET, whose step and that of a hardware reset are the reset of the block. -/
theorem hardwareResetIsTheSameTransition : Obligations.HardwareResetIsTheSameTransition := by
  unfold Obligations.HardwareResetIsTheSameTransition
  intro s w rest hw
  have hreset : decodeCommand w = .reset := (decodeCommand_eq_reset_iff w).2 hw
  rw [step_of_hardReset (rest := rest) rfl, step_of_command (w := w) (rest := rest) rfl, hreset, exec_reset]
  rfl

/-- Settles O37: its registers and buffers are those a reset of the block leaves, and the host makes no move. -/
theorem stateAfterReset : Obligations.StateAfterReset := by
  unfold Obligations.StateAfterReset
  rintro c s rfl
  exact ⟨rfl, rfl, rfl, rfl, rfl, rfl, rfl, rfl, rfl, rfl, rfl, rfl, rfl, rfl,
    (State.resetWith c).read?_resetBlock_mem, rfl, step_of_idle rfl⟩

/-! ### An attached stream -/

/-- The step of an attach in HDR0 (R243). -/
theorem step_of_attach {stream : InStream} {rest : List HostMove} (h : s.host = .attach stream :: rest)
    (hp : s.ph = .hdr0) : step s = .next ((s.setHost rest).setIn stream) := by
  simp [step, h, performMove, performAttach, hp]

/-- The step of an attach in any other phase (R243). -/
theorem step_of_attach_outside_hdr0 {stream : InStream} {rest : List HostMove} (h : s.host = .attach stream :: rest)
    (hp : s.ph ≠ .hdr0) : step s = .refused .attachOutsideHdr0 := by
  have hstep : step s = performAttach stream (s.setHost rest) := by simp [step, h, performMove]
  rw [hstep, performAttach, State.setHost_ph]
  cases hph : s.ph with
  | hdr0 => exact absurd hph hp
  | _ => rfl

/-- Settles O54: by the phase that the move asks for. -/
theorem attachReplacesTheInput : Obligations.AttachReplacesTheInput := by
  unfold Obligations.AttachReplacesTheInput
  exact fun s stream rest h => ⟨step_of_attach h, step_of_attach_outside_hdr0 h⟩

/-! ### The buffer read port -/

/-- Below the capacity the port shows the byte of the buffer (R254). -/
theorem State.hostRead_of_lt {sel : Bool} {a : Nat} (h : a < s.cfg.capacity (readPortBuf sel)) :
    s.hostRead sel a = some (s.byteAt (readPortBuf sel) a) :=
  if_pos h

/-- There is no byte at or above the capacity (R73). -/
theorem State.hostRead_of_le {sel : Bool} {a : Nat} (h : s.cfg.capacity (readPortBuf sel) ≤ a) :
    s.hostRead sel a = none :=
  if_neg (Nat.not_lt.2 h)

theorem State.hostRead_of_written {sel : Bool} {a : Nat} {v : Byte} (h : a < s.cfg.capacity (readPortBuf sel))
    (hv : (s.mem (readPortBuf sel)).read? a = some v) : s.hostRead sel a = some v := by
  rw [State.hostRead_of_lt h, State.byteAt_of_read? _ _ _ _ hv]

/-- A byte without a value shows as the free byte of the draw (R44). -/
theorem State.hostRead_of_unwritten {sel : Bool} {a : Nat} (h : a < s.cfg.capacity (readPortBuf sel))
    (hv : (s.mem (readPortBuf sel)).read? a = none) :
    s.hostRead sel a = some (Config.freeByte s.draw (readPortBuf sel) a) := by
  rw [State.hostRead_of_lt h, State.byteAt_of_unwritten _ _ _ hv]

/-- Settles O56: the port's three answers, for each of the two buffers that it reads. -/
theorem bufferReadPortShowsTheBytes : Obligations.BufferReadPortShowsTheBytes := by
  unfold Obligations.BufferReadPortShowsTheBytes
  exact fun s a =>
    ⟨fun _ ha hv => State.hostRead_of_written (sel := false) ha hv,
      fun _ ha hv => State.hostRead_of_written (sel := true) ha hv,
      fun ha hv => State.hostRead_of_unwritten (sel := false) ha hv,
      fun ha hv => State.hostRead_of_unwritten (sel := true) ha hv,
      fun ha => State.hostRead_of_le (sel := false) ha, fun ha => State.hostRead_of_le (sel := true) ha⟩

end Sys2Proof.Machine
end
